-- ==== Sys2Proof/Word.lean ====
section
/-! DEFINITION. The two word types of the block: a byte (R6: "Bytes are 8-bit unsigned values 0 to 255") and
the 32-bit unsigned word of the three wire integers (R42). Everything else is a natural number (R5). -/

namespace Sys2Proof

/-- A byte of one of the four byte spaces (R40). -/
abbrev Byte := BitVec 8

/-- A 32-bit unsigned value: `CLEN`, `WIDTH`, `HEIGHT` (R5). -/
abbrev Word := BitVec 32

/-- Four separate bytes in stream order, never assembled into an integer: a chunk's type tag (R16, R42)
and its trailer (R71). -/
structure Bytes4 where
  b0 : Byte
  b1 : Byte
  b2 : Byte
  b3 : Byte
  deriving DecidableEq, Repr

/-- The answer of `Inflate` (R140): exactly one of `Ok(z)`, `DataError`, `MemoryError`. -/
inductive InflateResult where
  | ok (z : List Byte)
  | dataError
  | memoryError
  deriving DecidableEq, Repr, Inhabited

end Sys2Proof
end

