-- ==== Sys2Proof/Config.lean ====
section
/-! DEFINITION. What is fixed for the machine: the constants of the wire formats, the optional switch of decision
D11, and the one value the spec leaves open, the answer of `Inflate`. -/

namespace Sys2Proof.Config

/-- The eight signature bytes (R72, R100). -/
def signature : List Byte := [0x89, 0x50, 0x4E, 0x47, 0x0D, 0x0A, 0x1A, 0x0A]

/-- `IHDR` (R73). PRESUMED: the tags are ASCII codes (log 11). -/
def tagIHDR : Bytes4 := ⟨0x49, 0x48, 0x44, 0x52⟩
/-- `IDAT` (R73). -/
def tagIDAT : Bytes4 := ⟨0x49, 0x44, 0x41, 0x54⟩
/-- `iCCP` (R73); the first letter is lower case. -/
def tagICCP : Bytes4 := ⟨0x69, 0x43, 0x43, 0x50⟩
/-- `IEND` (R73). -/
def tagIEND : Bytes4 := ⟨0x49, 0x45, 0x4E, 0x44⟩

/-- The length an `IHDR` payload must have (R74, R111). -/
def ihdrLength : Word := 13

/-- The two readings decision D11 (U20) allows for the place of the `UnsupportedFormat` check. -/
inductive CheckPoint where
  | engineEntry
  | ihdrParse
  deriving DecidableEq, Repr

/-- `UNSUPPORTED_CHECK_AT` (D11): its default `engine_entry` "is what every rule and test vector of this spec
uses". -/
def unsupportedCheckAt : CheckPoint := .engineEntry

/-- FREE VALUE (log 2): the external routine `Inflate` (R140, R141), for every operand the launch has not pinned.
No body: the machine assumes nothing of it except that its answer depends on its operand alone. -/
opaque inflate : List Byte → InflateResult

end Sys2Proof.Config
end

