-- ==== Sys2Proof/Syntax.lean ====
section
/-! DEFINITION. The instructions of the block: one constructor of `Instr` for each row of
`spec/opcode_table.json` (R79), and the host's transactions (R85, R197). -/

namespace Sys2Proof

/-- The operands of a chunk (R71): the payload, whose length is `CLEN`, and the trailer, which is "consumed but not
validated" (R104). -/
structure Chunk where
  payload : List Byte
  trailer : Bytes4
  deriving DecidableEq, Repr

/-- The launch parameters of `START` (R41, R141, R190). `N` is the length of `input`. `inflate` pins the answers of
`Inflate` for this launch, as the lines `Inflate(<bytes>) = <result>` of R83 do (log 2). -/
structure LaunchParams where
  streamOk : Bool
  input : List Byte
  inflate : List (List Byte × InflateResult)
  deriving DecidableEq, Repr

/-- The instructions: signature check, the five chunk classes, the six filter-type rows, the five host operations. -/
inductive Instr where
  /-- `SIG` (R100). -/
  | sig
  /-- `IHDR` (R111, R112). -/
  | ihdr (c : Chunk)
  /-- `IDAT` (R113). -/
  | idat (c : Chunk)
  /-- `ICCP` (R114): tag `iCCP`. -/
  | iccp (c : Chunk)
  /-- `IEND` (R116, R120). -/
  | iend (c : Chunk)
  /-- `OTHER` (R115): every tag not matched by an earlier row, a second or later `IHDR` included. -/
  | other (tag : Bytes4) (c : Chunk)
  /-- `NONE` (R161). `data` are the filtered bytes of the scanline (R76). -/
  | ftNone (data : List Byte)
  /-- `SUB` (R162). -/
  | ftSub (data : List Byte)
  /-- `UP` (R163). -/
  | ftUp (data : List Byte)
  /-- `AVERAGE` (R164). -/
  | ftAverage (data : List Byte)
  /-- `PAETH` (R167, R168). -/
  | ftPaeth (data : List Byte)
  /-- `FT_RESERVED` (R166): filter type 5 to 255. -/
  | ftReserved (ft : Byte) (data : List Byte)
  /-- `START` (R190). -/
  | start (p : LaunchParams)
  /-- `getHeader` (R192). -/
  | getHeader
  /-- `getImageData` (R193). -/
  | getImageData
  /-- `compareSize(width, height)` (R195). -/
  | compareSize (width height : Word)
  /-- `reverseImage` (R194, R196). -/
  | reverseImage
  deriving DecidableEq, Repr

/-- "The complete set of host-visible operations" (R197): `reset`, the five operations, and the reads of `PHASE`,
`ERR`, `END`, `CPS`. -/
inductive HostOp where
  | reset
  | start (p : LaunchParams)
  | getHeader
  | getImageData
  | compareSize (width height : Word)
  | reverseImage
  | readPhase
  | readErr
  | readEnd
  | readCps
  deriving DecidableEq, Repr

/-- The three formats (R70). A chunk's class depends on `CPS.IHDR_SEEN` (R73); a scanline's length on `STRIDE`
(R82). -/
inductive Format where
  | sig
  | chunk (ihdrSeen : Bool)
  | scanline (stride : Nat)
  deriving DecidableEq, Repr

end Sys2Proof
end

