-- ==== Sys2Proof/Machine/State.lean ====
section
/-! DEFINITION. The state of the block (R10), the reasons a step can stop, and the state after reset (R30). -/

namespace Sys2Proof.Machine

/-- `PHASE` (R11). -/
inductive Phase where
  | idle
  | run
  | done
  | fault
  deriving DecidableEq, Repr

/-- `END` (R12): why the chunk loop terminated. -/
inductive EndCause where
  | none
  | iend
  | eof
  deriving DecidableEq, Repr

/-- `ERR` (R13, R210). -/
inductive ErrKind where
  | noError
  | ioError
  | invalidSignature
  | missingHeader
  | invalidDimensions
  | unsupportedFormat
  | chunkOrderingViolation
  | decompressionError
  | truncatedChunk
  | badHeaderLength
  | scanlineLengthMismatch
  | badFilterType
  deriving DecidableEq, Repr

/-- `CPS` (R15), the four chunk-presence flags. `Cps.toBits` in `Flags.lean` is the 4-bit view the host reads. -/
structure Cps where
  ihdrSeen : Bool
  idatSeen : Bool
  inRun : Bool
  iendSeen : Bool
  deriving DecidableEq, Repr

/-- The seven header registers (R17), "written together, once, by the first IHDR chunk". -/
structure ImageHeader where
  width : Word
  height : Word
  bitDepth : Byte
  colorType : Byte
  compression : Byte
  filter : Byte
  interlace : Byte
  deriving DecidableEq, Repr

/-- The two results of `compareSize` (R195): "a two-valued enumeration with no numeric encoding in the source". -/
inductive SizeResult where
  | success
  | fail
  deriving DecidableEq, Repr

/-- What a host transaction delivers: a copy of the header, of the pixel buffer, a comparison, or a status register. -/
inductive HostReply where
  | header (h : ImageHeader)
  | imageData (bytes : List Byte)
  | size (r : SizeResult)
  | phase (p : Phase)
  | err (e : ErrKind)
  | endCause (e : EndCause)
  | cps (c : Cps)
  deriving DecidableEq, Repr

/-- The MODEL'S own sequencing state (log 5). `between`: at the boundary of two chunk steps. `flushing i`: inside the chunk
step that fetched `i`, between the engine's entry and the checks 2 and 3 of R105. -/
inductive Flow where
  | between
  | flushing (pending : Instr)
  deriving DecidableEq, Repr

/-- The state. The fields down to `ft` are the spec's (R10); the last four are the model's own. The registers that R30 leaves
"unwritten" at reset hold a value here like every other; no step shows it (log 1). -/
structure State where
  /-- `PHASE` (R11). -/
  phase : Phase
  /-- `END` (R12). -/
  endCause : EndCause
  /-- `ERR` (R13). -/
  err : ErrKind
  /-- `POS` (R14), the program counter. -/
  pos : Nat
  /-- `CPS` (R15). -/
  cps : Cps
  /-- `CLEN` (R16). -/
  clen : Word
  /-- `CTYPE` (R16). -/
  ctype : Bytes4
  /-- `WIDTH`, `HEIGHT`, `BITDEPTH`, `COLORTYPE`, `COMPRESSION`, `FILTER`, `INTERLACE` (R17). -/
  hdr : ImageHeader
  /-- `IDATBUF` (R21). -/
  idatbuf : List Byte
  /-- `ZBUF` (R22). -/
  zbuf : List Byte
  /-- `PIXBUF` (R23). -/
  pixbuf : List Byte
  /-- `ZIDX` (R24). -/
  zidx : Nat
  /-- `OIDX` (R24). -/
  oidx : Nat
  /-- `ROW` (R24). -/
  row : Nat
  /-- `FT` (R24). -/
  ft : Byte
  /-- The launch parameters `stream_ok`, `IN`, `Inflate` (R8, R41, R141). -/
  launch : LaunchParams
  /-- Model's own: where inside a chunk step the block is. -/
  flow : Flow
  /-- Model's own: the host's transactions not yet taken, oldest first. -/
  hostQueue : List HostOp
  /-- Model's own: the copies delivered to the host, oldest first. -/
  replies : List HostReply
  deriving DecidableEq, Repr

/-- Stops that the spec says cannot occur; the invariant rules all of them out. -/
inductive Fault where
  /-- A read beyond the end of a byte space (R53). Raised by the scanline fetch. Safe. -/
  | readPastEnd
  /-- `BPP` of a colour type that is neither 2 nor 6 (R20: "undefined for any other `COLORTYPE`"). Raised by
  `withBpp`. Safe. -/
  | bppUndefined
  deriving DecidableEq, Repr

/-- Steps the spec gives no transition (93_implementation_defined.md: "`refuse` (the operation has no transition)"). -/
inductive Refusal where
  /-- An instruction without a meaning yet, by its mnemonic. No arm uses it. Safe. -/
  | notModelled (mnemonic : String)
  /-- Outside a launch and no host transaction is pending: the block has nothing to do (R11). Safe. -/
  | noTransaction
  /-- `START` when `PHASE` is not `IDLE` (R190). Safe. -/
  | startOutsideIdle
  /-- A result operation outside `DONE` (R191), or a read of `END` or `CPS` in `FAULT` (R31, R191). Safe. -/
  | resultUnavailable
  /-- `getHeader` or `compareSize` when no header was parsed (R192, R195). Safe. -/
  | headerNotParsed
  /-- `reverseImage` unless `COMPLETE` and `BPP = 4` (R196). Safe. -/
  | reverseUndefined
  deriving DecidableEq, Repr

/-- A step's outcome. -/
abbrev Result := Host.Outcome State Fault Refusal

/-- The state after reset (R30, R240). DESIGN CHOICE: the registers R30 leaves "unwritten" hold 0 (log 1), the launch parameters
are empty (log 3). -/
def State.reset : State where
  phase := .idle
  endCause := .none
  err := .noError
  pos := 0
  cps := ⟨false, false, false, false⟩
  clen := 0
  ctype := ⟨0, 0, 0, 0⟩
  hdr := ⟨0, 0, 0, 0, 0, 0, 0⟩
  idatbuf := []
  zbuf := []
  pixbuf := []
  zidx := 0
  oidx := 0
  row := 0
  ft := 0
  launch := ⟨false, [], []⟩
  flow := .between
  hostQueue := []
  replies := []

end Sys2Proof.Machine
end

