-- ==== Sys2Proof/Machine/Flags.lean ====
section
/-! DEFINITION. The flag register `CPS` (R15): its setters, the one place each flag is written, and the numeric codes this
spec assigns to `CPS`, `PHASE`, `END` and `ERR` (decision D3). -/

namespace Sys2Proof.Machine

/-- `CPS.IHDR_SEEN <- 1` (R112). -/
def Cps.markIhdr (c : Cps) : Cps := { c with ihdrSeen := true }

/-- `CPS.IDAT_SEEN <- 1; CPS.IN_RUN <- 1` (R113), on every `IDAT`. -/
def Cps.markIdat (c : Cps) : Cps := { c with idatSeen := true, inRun := true }

/-- `CPS.IN_RUN <- 0` (R110); `IDAT_SEEN` keeps its value. -/
def Cps.endRun (c : Cps) : Cps := { c with inRun := false }

/-- `CPS.IEND_SEEN <- 1` (R116). -/
def Cps.markIend (c : Cps) : Cps := { c with iendSeen := true }

/-- The 4-bit view: bit 0 `IHDR_SEEN`, bit 1 `IDAT_SEEN`, bit 2 `IN_RUN`, bit 3 `IEND_SEEN` (R15). -/
def Cps.toBits (c : Cps) : BitVec 4 :=
  BitVec.ofNat 4 (c.ihdrSeen.toNat + 2 * c.idatSeen.toNat + 4 * c.inRun.toNat + 8 * c.iendSeen.toNat)

/-- The codes of `PHASE` (R11). -/
def Phase.code : Phase → Nat
  | .idle => 0
  | .run => 1
  | .done => 2
  | .fault => 3

/-- The codes of `END` (R12). -/
def EndCause.code : EndCause → Nat
  | .none => 0
  | .iend => 1
  | .eof => 2

/-- The codes of `ERR` (R210). -/
def ErrKind.code : ErrKind → Nat
  | .noError => 0
  | .ioError => 1
  | .invalidSignature => 2
  | .missingHeader => 3
  | .invalidDimensions => 4
  | .unsupportedFormat => 5
  | .chunkOrderingViolation => 6
  | .decompressionError => 7
  | .truncatedChunk => 8
  | .badHeaderLength => 9
  | .scanlineLengthMismatch => 10
  | .badFilterType => 11

end Sys2Proof.Machine
end

