-- ==== Sys2Proof/WellFormed.lean ====
section
/-! DEFINITION. Which instructions an encoding admits (`Instr.wf`), and in which format of the two instruction streams
each of them is decoded (`Instr.fits`). -/

namespace Sys2Proof

/-- The payload's length must be a 32-bit value (R71: 0 to `2^32 - 1`). -/
def Chunk.wf (c : Chunk) : Bool := decide (c.payload.length < 2 ^ 32)

/-- `OTHER` never carries one of the three tags that an earlier row takes whatever the state (R73). -/
def Bytes4.isOther (t : Bytes4) : Bool :=
  t != Config.tagIDAT && t != Config.tagICCP && t != Config.tagIEND

/-- The well-formed instructions. -/
def Instr.wf : Instr → Bool
  | .sig => true
  | .ihdr c => c.wf
  | .idat c => c.wf
  | .iccp c => c.wf
  | .iend c => c.wf
  | .other tag c => tag.isOther && c.wf
  | .ftNone _ => true
  | .ftSub _ => true
  | .ftUp _ => true
  | .ftAverage _ => true
  | .ftPaeth _ => true
  | .ftReserved ft _ => decide (4 < ft.toNat)
  | .start _ => true
  | .getHeader => true
  | .getImageData => true
  | .compareSize _ _ => true
  | .reverseImage => true

/-- The format, with the state it depends on, in which an instruction is decoded. `IHDR` is decoded only while
`IHDR_SEEN` is 0, and a chunk with its tag is `OTHER` afterwards (R73); a scanline's data are `STRIDE` bytes (R76). Host
operations have no encoding (R85). -/
def Instr.fits : Format → Instr → Bool
  | .sig, .sig => true
  | .chunk seen, .ihdr _ => !seen
  | .chunk _, .idat _ => true
  | .chunk _, .iccp _ => true
  | .chunk _, .iend _ => true
  | .chunk seen, .other tag _ => seen || tag != Config.tagIHDR
  | .scanline n, .ftNone d => d.length == n
  | .scanline n, .ftSub d => d.length == n
  | .scanline n, .ftUp d => d.length == n
  | .scanline n, .ftAverage d => d.length == n
  | .scanline n, .ftPaeth d => d.length == n
  | .scanline n, .ftReserved _ d => d.length == n
  | _, _ => false

end Sys2Proof
end

