-- ==== Sys2Proof/Decode.lean ====
section
/-! DEFINITION. The decoder of the two instruction streams, total on any bytes and rejecting by name (R70 to R82), and
after it the encoder, written from the same field tables. -/

namespace Sys2Proof

/-- `be32` (R6): four bytes in big-endian order, the first at the lowest stream offset. -/
def be32 (b0 b1 b2 b3 : Byte) : Word :=
  BitVec.ofNat 32 (2 ^ 24 * b0.toNat + 2 ^ 16 * b1.toNat + 2 ^ 8 * b2.toNat + b3.toNat)

/-- The four bytes of a 32-bit value, most significant first (R42). -/
def wordBytes (w : Word) : List Byte :=
  [BitVec.ofNat 8 (w.toNat / 2 ^ 24), BitVec.ofNat 8 (w.toNat / 2 ^ 16), BitVec.ofNat 8 (w.toNat / 2 ^ 8),
    BitVec.ofNat 8 w.toNat]

/-- Four bytes in stream order. -/
def Bytes4.toList (t : Bytes4) : List Byte := [t.b0, t.b1, t.b2, t.b3]

/-- `CLEN` of a chunk: its payload's length (R71). -/
def Chunk.clen (c : Chunk) : Word := BitVec.ofNat 32 c.payload.length

/-- Why bytes are no instruction of a format. -/
inductive DecodeError where
  /-- Fewer than eight bytes where the signature must stand (R100). -/
  | shortSignature
  /-- Eight bytes that are not the signature (R72). -/
  | badSignature
  /-- Fewer than eight bytes where a chunk's length and type must stand (R103). -/
  | shortChunkHead
  /-- Payload and trailer are not both present (R103). -/
  | shortChunkBody
  /-- No byte where a filter type must stand. -/
  | emptyScanline
  /-- Fewer than `STRIDE` bytes after the filter type (R76). -/
  | shortScanline
  deriving DecidableEq, Repr

/-- The class of a chunk, tested in the order of R73. -/
def chunkClass (ihdrSeen : Bool) (tag : Bytes4) (c : Chunk) : Instr :=
  if !ihdrSeen && tag == Config.tagIHDR then .ihdr c
  else if tag == Config.tagIDAT then .idat c
  else if tag == Config.tagICCP then .iccp c
  else if tag == Config.tagIEND then .iend c
  else .other tag c

/-- The predictor a filter type selects (R77); every value above 4 is reserved (R81). -/
def scanlineClass (ft : Byte) (data : List Byte) : Instr :=
  if ft == 0 then .ftNone data
  else if ft == 1 then .ftSub data
  else if ft == 2 then .ftUp data
  else if ft == 3 then .ftAverage data
  else if ft == 4 then .ftPaeth data
  else .ftReserved ft data

/-- Format `SIG` (R72): the eight bytes, compared byte for byte. -/
def decodeSig (bs : List Byte) : Except DecodeError (Instr × List Byte) :=
  if bs.length < 8 then .error .shortSignature
  else if bs.take 8 == Config.signature then .ok (.sig, bs.drop 8)
  else .error .badSignature

/-- Format `CHUNK` (R71): length, type, payload, trailer, and the bytes after it. -/
def decodeChunk (ihdrSeen : Bool) (bs : List Byte) : Except DecodeError (Instr × List Byte) :=
  match bs with
  | l0 :: l1 :: l2 :: l3 :: t0 :: t1 :: t2 :: t3 :: body =>
    match body.drop (be32 l0 l1 l2 l3).toNat with
    | r0 :: r1 :: r2 :: r3 :: rest =>
      .ok (chunkClass ihdrSeen ⟨t0, t1, t2, t3⟩ ⟨body.take (be32 l0 l1 l2 l3).toNat, ⟨r0, r1, r2, r3⟩⟩, rest)
    | _ => .error .shortChunkBody
  | _ => .error .shortChunkHead

/-- Format `SCANLINE` (R76): the filter type, then `stride` filtered bytes. -/
def decodeScanline (stride : Nat) (bs : List Byte) : Except DecodeError (Instr × List Byte) :=
  match bs with
  | ft :: body =>
    if body.length < stride then .error .shortScanline
    else .ok (scanlineClass ft (body.take stride), body.drop stride)
  | [] => .error .emptyScanline

/-- The decoder: the instruction of the given format at the head of the bytes, and the bytes after it. -/
def decode (f : Format) (bs : List Byte) : Except DecodeError (Instr × List Byte) :=
  match f with
  | .sig => decodeSig bs
  | .chunk ihdrSeen => decodeChunk ihdrSeen bs
  | .scanline stride => decodeScanline stride bs

/-- The bytes of a chunk (R71). -/
def chunkBytes (tag : Bytes4) (c : Chunk) : List Byte :=
  wordBytes c.clen ++ (tag.toList ++ (c.payload ++ c.trailer.toList))

/-- The encoder: the bytes of an instruction, none for a host operation (R85). -/
def encode : Instr → Option (List Byte)
  | .sig => some Config.signature
  | .ihdr c => some (chunkBytes Config.tagIHDR c)
  | .idat c => some (chunkBytes Config.tagIDAT c)
  | .iccp c => some (chunkBytes Config.tagICCP c)
  | .iend c => some (chunkBytes Config.tagIEND c)
  | .other tag c => some (chunkBytes tag c)
  | .ftNone d => some (0 :: d)
  | .ftSub d => some (1 :: d)
  | .ftUp d => some (2 :: d)
  | .ftAverage d => some (3 :: d)
  | .ftPaeth d => some (4 :: d)
  | .ftReserved ft d => some (ft :: d)
  | .start _ => none
  | .getHeader => none
  | .getImageData => none
  | .compareSize _ _ => none
  | .reverseImage => none

/-! ### The opcode table's own numbering

A row of format CHUNK gives the 32 bits of the `type` field, a row of format SCANLINE the 8 bits of `ft`, the row of format
SIG the 64 bits of the signature, each "first byte most significant" (`spec/opcode_table.json`). -/

/-- The `n` bytes of a number, most significant first. -/
def tableBytes : Nat → Nat → List Byte
  | 0, _ => []
  | n + 1, w => BitVec.ofNat 8 (w / 2 ^ (8 * n)) :: tableBytes n w

/-- The stream bytes of a table word, every bit the table does not give being 0 (log 10): a chunk of length 0 with a
zero trailer, a scanline of one black TrueColor pixel. -/
def tableStream (nbits w : Nat) : Option (List Byte) :=
  if nbits = 64 then some (tableBytes 8 w)
  else if nbits = 32 then some ([0, 0, 0, 0] ++ tableBytes 4 w ++ [0, 0, 0, 0])
  else if nbits = 8 then some (tableBytes 1 w ++ [0, 0, 0])
  else none

/-- The format a table word of that width belongs to. -/
def tableFormat (nbits : Nat) : Format :=
  if nbits = 64 then .sig else if nbits = 32 then .chunk false else .scanline 3

/-- The instruction the decoder reads from a table word. -/
def decodeTableWord (nbits w : Nat) : Option Instr :=
  match tableStream nbits w with
  | none => none
  | some bs =>
    match decode (tableFormat nbits) bs with
    | .ok (i, _) => some i
    | .error _ => none

end Sys2Proof
end

