-- ==== Sys2Proof/Machine/Operands.lean ====
section
/-! DEFINITION. The operand forms: the header's fields assembled from the `IHDR` payload (R74), the sizes derived from the
header (R20, R78), and the three neighbour references of the engine (R52, R155 to R158). -/

namespace Sys2Proof.Machine

/-- The header record in the 13 payload bytes of an `IHDR` (R74, R112). -/
def parseHeader (p : List Byte) : ImageHeader where
  width := be32 (p.getD 0 0) (p.getD 1 0) (p.getD 2 0) (p.getD 3 0)
  height := be32 (p.getD 4 0) (p.getD 5 0) (p.getD 6 0) (p.getD 7 0)
  bitDepth := p.getD 8 0
  colorType := p.getD 9 0
  compression := p.getD 10 0
  filter := p.getD 11 0
  interlace := p.getD 12 0

/-- `BPP` (R20): 3 for TrueColor, 4 for TrueColorAlpha, undefined for any other colour type. -/
def bppOf (colorType : Byte) : Option Nat :=
  if colorType == 2 then some 3 else if colorType == 6 then some 4 else none

/-- `STRIDE = WIDTH * BPP` (R20), an unbounded natural (R5). -/
def strideOf (h : ImageHeader) (bpp : Nat) : Nat := h.width.toNat * bpp

/-- `ROWBYTES = 1 + STRIDE` (R20). -/
def rowBytesOf (h : ImageHeader) (bpp : Nat) : Nat := 1 + strideOf h bpp

/-- The formats the engine supports (R151): colour type 2 or 6 and bit depth 8. -/
def supported (h : ImageHeader) : Bool := (h.colorType == 2 || h.colorType == 6) && h.bitDepth == 8

/-- `leftEdge(i) = ((i mod STRIDE) < BPP)` (R52): the first pixel of a row. -/
def leftEdge (bpp stride i : Nat) : Bool := decide (i % stride < bpp)

/-- `topEdge(i) = (i < STRIDE)` (R52): the first row, by the absolute index (D14). -/
def topEdge (stride i : Nat) : Bool := decide (i < stride)

/-- `left` (R156) of the byte about to be appended to `pix`, at absolute index `i = len(pix)` (R155). For `left`, `up` and `upLeft`
the reference is inside `pix` whenever `bpp` and `stride` are positive; the 0 for a reference outside it is the model's
choice (log 6). -/
def leftOf (bpp stride : Nat) (pix : List Byte) : Byte :=
  if leftEdge bpp stride pix.length then 0 else pix.getD (pix.length - bpp) 0

/-- `up` (R157). -/
def upOf (stride : Nat) (pix : List Byte) : Byte :=
  if topEdge stride pix.length then 0 else pix.getD (pix.length - stride) 0

/-- `upLeft` (R158). -/
def upLeftOf (bpp stride : Nat) (pix : List Byte) : Byte :=
  if leftEdge bpp stride pix.length || topEdge stride pix.length then 0
  else pix.getD (pix.length - stride - bpp) 0

/-- `HDR_VALID` (R25). -/
def State.hdrValid (s : State) : Bool := s.cps.ihdrSeen

/-- `COMPLETE` (R25). -/
def State.complete (s : State) : Bool :=
  match bppOf s.hdr.colorType with
  | none => false
  | some bpp =>
    s.phase == .done && s.hdrValid && s.hdr.bitDepth == 8
      && s.pixbuf.length == s.hdr.width.toNat * s.hdr.height.toNat * bpp

end Sys2Proof.Machine
end

