-- ==== Sys2Proof/Machine/Ops.lean ====
section
/-! DEFINITION. The shared operations: byte-space access (R7), taking an exception (R216), the effects of
a chunk fetch (R103), the flush (R110) with the engine's entry (R150), and the frame of a chunk step (R105). -/

namespace Sys2Proof.Machine

/-- `BPP` of a header; undefined for other colour types (R20). -/
def withBpp (h : ImageHeader) (k : Nat → Result) : Result :=
  match bppOf h.colorType with
  | some bpp => k bpp
  | none => .fault .bppUndefined

/-- `MemRead(space, addr, n)` (R7), "defined only when `addr + n <= len(space)`"; that a read that reaches further gives the bytes
there are is the model's choice (log 6). -/
def memRead (space : List Byte) (addr n : Nat) : List Byte := (space.drop addr).take n

/-- `MemAppend(space, bytes)` (R7). -/
def memAppend (space bytes : List Byte) : List Byte := space ++ bytes

/-- `MemWrite(space, addr, n, v)` (R7), `n` being the length of `v`: overwrite in place. -/
def memWrite (space : List Byte) (addr : Nat) (v : List Byte) : List Byte :=
  space.take addr ++ (v ++ space.drop (addr + v.length))

/-- TAKING AN EXCEPTION, `raise K` (R216): `ERR <- K; PHASE <- FAULT`, the step in progress is abandoned. No state is saved,
no handler runs; what the rest of the state holds is unspecified and unreadable (R31, log 7). There is no return from it
(R225): only `applyReset` leaves `FAULT`. -/
def raise (k : ErrKind) (s : State) : State :=
  { s with err := k, phase := .fault, flow := .between }

/-- `Inflate` (R140, R141): the launch's pinned answer, else the machine's open parameter (log 2). -/
def inflate (pinned : List (List Byte × InflateResult)) (bytes : List Byte) : InflateResult :=
  match pinned.find? (fun e => e.1 == bytes) with
  | some e => e.2
  | none => Config.inflate bytes

/-- The register effects of a completed chunk fetch (R103): `CLEN`, `CTYPE`, and `POS <- POS_0 + 12 + CLEN`. -/
def latchChunk (tag : Bytes4) (c : Chunk) (s : State) : State :=
  { s with clen := c.clen, ctype := tag, pos := s.pos + 12 + c.clen.toNat }

/-- The engine's entry (R150): the format check (R151), then the length check (R152), then the loop's registers (R153). The
scanlines are instructions of their own; `pending` is the chunk whose step the flush belongs to. -/
def enterEngine (pending : Instr) (s : State) : Result :=
  if !supported s.hdr then .next (raise .unsupportedFormat s)
  else withBpp s.hdr fun bpp =>
    if s.zbuf.length ≠ s.hdr.height.toNat * rowBytesOf s.hdr bpp then .next (raise .scanlineLengthMismatch s)
    else .next { s with zidx := 0, row := 0, oidx := s.pixbuf.length, flow := .flushing pending }

/-- The flush up to the engine's entry (R110): `Inflate` on the whole of `IDATBUF`; either error is `DecompressionError`
(R143); else `ZBUF` is the answer's bytes. -/
def beginFlush (pending : Instr) (s : State) : Result :=
  match inflate s.launch.inflate s.idatbuf with
  | .dataError => .next (raise .decompressionError s)
  | .memoryError => .next (raise .decompressionError s)
  | .ok z => enterEngine pending { s with zbuf := z }

/-- The flush's end (R110, R165): `MemClear(IDATBUF); MemClear(ZBUF); CPS.IN_RUN <- 0`. -/
def endFlush (s : State) : State :=
  { s with idatbuf := [], zbuf := [], cps := s.cps.endRun, flow := .between }

/-- Check 2 of a chunk step (R117), then check 3. -/
def requireHeader (body : State → Result) (s : State) : Result :=
  if s.cps.ihdrSeen then body s else .next (raise .missingHeader s)

/-- A chunk step (R105) of the instruction `i`, whose tag, operands and class are given. At a boundary: the fetch's effects,
then check 1, which either opens the flush of the run that this chunk ends or lets the chunk go on; inside the flush, once
its scanlines are done: the flush's end, then the class. -/
def chunkStep (i : Instr) (tag : Bytes4) (c : Chunk) (body : State → Result) (s : State) : Result :=
  match s.flow with
  | .flushing _ => body (endFlush s)
  | .between =>
    if s.cps.inRun && (latchChunk tag c s).ctype != Config.tagIDAT then beginFlush i (latchChunk tag c s)
    else body (latchChunk tag c s)

/-- Termination by end of stream (R121): not an error, and no flush. -/
def endOfStream (s : State) : State := { s with endCause := .eof, phase := .done }

/-- Reset (R240), in any phase: every register and buffer at its reset value. The host's own queue and the copies it
already holds are not the block's. -/
def applyReset (rest : List HostOp) (s : State) : State :=
  { State.reset with hostQueue := rest, replies := s.replies }

/-- A copy delivered to the host. -/
def deliver (r : HostReply) (s : State) : State := { s with replies := s.replies ++ [r] }

/-- The gate of the result operations (R191): defined only in `DONE`. -/
def whenDone (k : State → Result) (s : State) : Result :=
  if s.phase == .done then k s else .refused .resultUnavailable

/-- The gate of `getHeader` and `compareSize` (R192, R195): a header was parsed. -/
def whenHeader (k : ImageHeader → State → Result) (s : State) : Result :=
  if s.hdrValid then k s.hdr s else .refused .headerNotParsed

end Sys2Proof.Machine
end

