-- ==== Sys2Proof/Machine/Container.lean ====
section
/-! DEFINITION. The container family (40_container_parser.md): `SIG` and the five chunk classes. -/

namespace Sys2Proof.Machine

/-- `SIG` (R100). -/
def execSig (s : State) : Result :=
  if s.launch.input.length < 8 then .next (raise .invalidSignature s)
  else if memRead s.launch.input 0 8 ≠ Config.signature then .next (raise .invalidSignature s)
  else .next { s with pos := 8 }

/-- The dimension check of a parsed header (R112), and, only under the other reading of D11, the format check (log 8). -/
def acceptHeader (h : ImageHeader) (s : State) : Result :=
  if h.width = 0 ∨ h.height = 0 then .next (raise .invalidDimensions s)
  else if Config.unsupportedCheckAt = .ihdrParse ∧ supported h = false then .next (raise .unsupportedFormat s)
  else .next { s with cps := s.cps.markIhdr }

/-- Class `IHDR`: length check (R111), then header parse (R112): the seven registers are written, then checked. Once a header has
been accepted they are immutable (R17): the chunk is discarded like `OTHER` (R115; log 12). -/
def ihdrBody (c : Chunk) (s : State) : Result :=
  if s.cps.ihdrSeen then .next s
  else if s.clen ≠ Config.ihdrLength then .next (raise .badHeaderLength s)
  else acceptHeader (parseHeader c.payload) { s with hdr := parseHeader c.payload }

/-- Class `IDAT` (R113). -/
def idatBody (c : Chunk) (s : State) : Result :=
  .next { s with idatbuf := memAppend s.idatbuf c.payload, cps := s.cps.markIdat }

/-- Class `ICCP` (R114). -/
def iccpBody (s : State) : Result :=
  if s.cps.idatSeen then .next (raise .chunkOrderingViolation s) else .next s

/-- Class `OTHER` (R115): read and discarded. -/
def otherBody (s : State) : Result := .next s

/-- Class `IEND` (R116) and termination (R120). -/
def iendBody (s : State) : Result :=
  .next { s with cps := s.cps.markIend, endCause := .iend, phase := .done }

/-- `IHDR` (R111, R112). -/
def execIhdr (c : Chunk) (s : State) : Result :=
  chunkStep (.ihdr c) Config.tagIHDR c (ihdrBody c) s

/-- `IDAT` (R113). -/
def execIdat (c : Chunk) (s : State) : Result :=
  chunkStep (.idat c) Config.tagIDAT c (requireHeader (idatBody c)) s

/-- `ICCP` (R114). -/
def execIccp (c : Chunk) (s : State) : Result :=
  chunkStep (.iccp c) Config.tagICCP c (requireHeader iccpBody) s

/-- `IEND` (R116, R120). -/
def execIend (c : Chunk) (s : State) : Result :=
  chunkStep (.iend c) Config.tagIEND c (requireHeader iendBody) s

/-- `OTHER` (R115). -/
def execOther (tag : Bytes4) (c : Chunk) (s : State) : Result :=
  chunkStep (.other tag c) tag c (requireHeader otherBody) s

end Sys2Proof.Machine
end

