-- ==== Sys2Proof/Machine/HostOps.lean ====
section
/-! DEFINITION. The host family (43_host_operations.md): `START`, `getHeader`, `getImageData`, `compareSize`,
`reverseImage`, and the reads of the status registers (R197). -/

namespace Sys2Proof.Machine

/-- `START` (R190): the launch parameters are fixed; `IOError` before any byte is read; else `PHASE <- RUN`, and the steps that
follow are the decode. Refused outside `IDLE`. -/
def execStart (p : LaunchParams) (s : State) : Result :=
  if s.phase ≠ .idle then .refused .startOutsideIdle
  else if p.streamOk = false then .next (raise .ioError { s with launch := p })
  else .next { s with launch := p, phase := .run }

/-- `getHeader` (R192): a copy of the seven header registers. -/
def execGetHeader (s : State) : Result :=
  whenDone (whenHeader fun h s => .next (deliver (.header h) s)) s

/-- `getImageData` (R193): a copy of the whole of `PIXBUF`, as it is. -/
def execGetImageData (s : State) : Result :=
  whenDone (fun s => .next (deliver (.imageData s.pixbuf) s)) s

/-- The comparison of `compareSize` (R195). -/
def sizeCompare (width height : Word) (h : ImageHeader) : SizeResult :=
  if width = h.width ∧ height = h.height then .success else .fail

/-- `compareSize(width, height)` (R195). -/
def execCompareSize (width height : Word) (s : State) : Result :=
  whenDone (whenHeader fun h s => .next (deliver (.size (sizeCompare width height h)) s)) s

/-- The swap of two 4-byte units (R194), at byte addresses `a` and `b`. -/
def swapUnits (a b : Nat) (pix : List Byte) : List Byte :=
  let t := memRead pix a 4
  memWrite (memWrite pix a (memRead pix b 4)) b t

/-- The inner loop of R194: the first `n` units of rows `k` and `k'` of an image of `width` pixels, in increasing `x`. -/
def swapRowPair (width k k' : Nat) : Nat → List Byte → List Byte
  | 0, pix => pix
  | n + 1, pix => swapUnits ((k * width + n) * 4) ((k' * width + n) * 4) (swapRowPair width k k' n pix)

/-- The outer loop of R194: rows `0 .. n-1` with their mirror rows, in increasing `k`. -/
def swapRows (width height : Nat) : Nat → List Byte → List Byte
  | 0, pix => pix
  | n + 1, pix => swapRowPair width n (height - 1 - n) width (swapRows width height n pix)

/-- `reverseImage` (R194): the vertical flip, defined only when `COMPLETE` and `BPP = 4`; refused otherwise (R196), and
outside `DONE` (R191). -/
def execReverseImage (s : State) : Result :=
  whenDone (fun s =>
    if s.complete = true ∧ bppOf s.hdr.colorType = some 4 then
      .next { s with pixbuf := swapRows s.hdr.width.toNat s.hdr.height.toNat (s.hdr.height.toNat / 2) s.pixbuf }
    else .refused .reverseUndefined) s

/-- The host's read of `PHASE` (R197): in any phase in which the host can act. -/
def readPhase (s : State) : Result := .next (deliver (.phase s.phase) s)

/-- The host's read of `ERR` (R197). -/
def readErr (s : State) : Result := .next (deliver (.err s.err) s)

/-- The host's read of `END` (R12, R197): not in `FAULT`, where "what the host can read is `PHASE` and `ERR` only" (R191). R197 names
no phase: that `IDLE` answers is the model's choice (log 13). -/
def readEnd (s : State) : Result :=
  if s.phase = .fault then .refused .resultUnavailable else .next (deliver (.endCause s.endCause) s)

/-- The host's read of `CPS` (R15, R197): not in `FAULT` (R191). R15 keeps it readable in `DONE`, R197 names no phase: that `IDLE`
answers is the model's choice (log 13). -/
def readCps (s : State) : Result :=
  if s.phase = .fault then .refused .resultUnavailable else .next (deliver (.cps s.cps) s)

end Sys2Proof.Machine
end

