-- ==== Sys2Proof/Machine/Scanline.lean ====
section
/-! DEFINITION. The scanline family (42_scanline_reconstruction.md): the five predictors, `calcPaeth`, the reconstruction
equation, and the six scanline instructions. -/

namespace Sys2Proof.Machine

/-- `calcPaeth(a, b, c)` (R168), on signed integers, with the tie-break order a, then b, then c. -/
def calcPaeth (a b c : Byte) : Byte :=
  let p : Int := (a.toNat : Int) + b.toNat - c.toNat
  let pa := (p - a.toNat).natAbs
  let pb := (p - b.toNat).natAbs
  let pc := (p - c.toNat).natAbs
  if pa ≤ pb ∧ pa ≤ pc then a
  else if pb ≤ pc then b
  else c

/-- A predictor: from `left`, `up`, `upLeft` to `pred`, widened (R159). -/
abbrev Predictor := Byte → Byte → Byte → Nat

/-- `NONE`: 0 (R161). -/
def predNone : Predictor := fun _ _ _ => 0

/-- `SUB`: `left` (R162). -/
def predSub : Predictor := fun left _ _ => left.toNat

/-- `UP`: `up` (R163). -/
def predUp : Predictor := fun _ up _ => up.toNat

/-- `AVERAGE`: `floor((left + up) / 2)`, the sum at full width (R164). -/
def predAverage : Predictor := fun left up _ => (left.toNat + up.toNat) / 2

/-- `PAETH`: `calcPaeth(left, up, upLeft)` (R167). -/
def predPaeth : Predictor := fun left up upLeft => (calcPaeth left up upLeft).toNat

/-- The reconstruction equation (R160): `out = (f + pred) mod 256`. -/
def reconstructByte (f : Byte) (pred : Nat) : Byte := BitVec.ofNat 8 ((f.toNat + pred) % 256)

/-- One byte of a scanline (R150): its neighbours read from the output (R155), its value appended. -/
def appendByte (bpp stride : Nat) (pred : Predictor) (pix : List Byte) (f : Byte) : List Byte :=
  memAppend pix
    [reconstructByte f (pred (leftOf bpp stride pix) (upOf stride pix) (upLeftOf bpp stride pix))]

/-- The bytes of a scanline, in increasing order (R153). -/
def reconstructRow (bpp stride : Nat) (pred : Predictor) (data : List Byte) (pix : List Byte) : List Byte :=
  data.foldl (appendByte bpp stride pred) pix

/-- A scanline instruction with filter type `ftype` (R150, R154): `FT` is the filter type, `ZIDX` moves past the scanline,
its bytes are appended, `ROW` counts it. -/
def execRow (ftype : Byte) (pred : Predictor) (data : List Byte) (s : State) : Result :=
  withBpp s.hdr fun bpp =>
    .next { s with
      ft := ftype
      zidx := s.zidx + (1 + data.length)
      pixbuf := reconstructRow bpp (strideOf s.hdr bpp) pred data s.pixbuf
      oidx := s.pixbuf.length + data.length
      row := s.row + 1 }

/-- `NONE` (R161). -/
def execFtNone (data : List Byte) (s : State) : Result := execRow 0 predNone data s

/-- `SUB` (R162). -/
def execFtSub (data : List Byte) (s : State) : Result := execRow 1 predSub data s

/-- `UP` (R163). -/
def execFtUp (data : List Byte) (s : State) : Result := execRow 2 predUp data s

/-- `AVERAGE` (R164). -/
def execFtAverage (data : List Byte) (s : State) : Result := execRow 3 predAverage data s

/-- `PAETH` (R167). -/
def execFtPaeth (data : List Byte) (s : State) : Result := execRow 4 predPaeth data s

/-- `FT_RESERVED` (R166): `BadFilterType` as soon as the filter type is fetched, before any byte of the scanline. -/
def execFtReserved (ftype : Byte) (_data : List Byte) (s : State) : Result :=
  .next (raise .badFilterType { s with ft := ftype })

end Sys2Proof.Machine
end

