-- ==== Sys2Proof/Machine/Dispatch.lean ====
section
/-! DEFINITION. One arm for each constructor of `Instr`. -/

namespace Sys2Proof.Machine

def exec (i : Instr) (s : State) : Host.Outcome State Fault Refusal :=
  match i with
  | .sig => Sys2Proof.Machine.execSig s
  | .ihdr c => Sys2Proof.Machine.execIhdr c s
  | .idat c => Sys2Proof.Machine.execIdat c s
  | .iccp c => Sys2Proof.Machine.execIccp c s
  | .iend c => Sys2Proof.Machine.execIend c s
  | .other tag c => Sys2Proof.Machine.execOther tag c s
  | .ftNone data => Sys2Proof.Machine.execFtNone data s
  | .ftSub data => Sys2Proof.Machine.execFtSub data s
  | .ftUp data => Sys2Proof.Machine.execFtUp data s
  | .ftAverage data => Sys2Proof.Machine.execFtAverage data s
  | .ftPaeth data => Sys2Proof.Machine.execFtPaeth data s
  | .ftReserved ft data => Sys2Proof.Machine.execFtReserved ft data s
  | .start p => Sys2Proof.Machine.execStart p s
  | .getHeader => Sys2Proof.Machine.execGetHeader s
  | .getImageData => Sys2Proof.Machine.execGetImageData s
  | .compareSize width height => Sys2Proof.Machine.execCompareSize width height s
  | .reverseImage => Sys2Proof.Machine.execReverseImage s

end Sys2Proof.Machine
end

