-- ==== Sys2Proof/Machine/Fetch.lean ====
section
/-! DEFINITION. What a step does before an instruction runs: the host transaction taken, or the next instruction fetched from
one of the two instruction streams, `IN` and `ZBUF` (R63, R101, R105, R150); and where a word is placed to be fetched next. -/

namespace Sys2Proof.Machine

/-- The next action of a step: run an instruction at a state, or give an outcome that no instruction stands for. -/
inductive Action where
  | exec (i : Instr) (s : State)
  | answer (r : Result)

/-- A host transaction, already taken from the queue (R190 to R197). -/
def hostAction (op : HostOp) (s : State) : Action :=
  match op with
  | .reset => .answer (.next (applyReset s.hostQueue s))
  | .start p => .exec (.start p) s
  | .getHeader => .exec .getHeader s
  | .getImageData => .exec .getImageData s
  | .compareSize w h => .exec (.compareSize w h) s
  | .reverseImage => .exec .reverseImage s
  | .readPhase => .answer (readPhase s)
  | .readErr => .answer (readErr s)
  | .readEnd => .answer (readEnd s)
  | .readCps => .answer (readCps s)

/-- Inside a flush (R150): the scanline at `ZIDX` while `ROW < HEIGHT`; then the pending chunk goes on. -/
def flushAction (pending : Instr) (s : State) : Action :=
  if s.row < s.hdr.height.toNat then
    match bppOf s.hdr.colorType with
    | some bpp =>
      match decode (.scanline (strideOf s.hdr bpp)) (s.zbuf.drop s.zidx) with
      | .ok (i, _) => .exec i s
      | .error _ => .answer (.fault .readPastEnd)
    | none => .answer (.fault .bppUndefined)
  else .exec pending s

/-- At a boundary (R101): the signature check first (`POS = 0`), then the end-of-stream test (R121), then the fetch of a whole
chunk (R103), which raises `TruncatedChunk` when the stream ends inside it (R219). -/
def chunkAction (s : State) : Action :=
  if s.pos = 0 then .exec .sig s
  else if s.pos = s.launch.input.length then .answer (.next (endOfStream s))
  else
    match decode (.chunk s.cps.ihdrSeen) (s.launch.input.drop s.pos) with
    | .ok (i, _) => .exec i s
    | .error _ => .answer (.next (raise .truncatedChunk s))

/-- In phase `RUN` (R101). -/
def runAction (s : State) : Action :=
  match s.flow with
  | .flushing pending => flushAction pending s
  | .between => chunkAction s

/-- The action of a step. Reset may be applied in any phase (R240); in `RUN` no other transaction is taken ("the host observes
nothing until it completes", R190); in the other phases only the host acts (R11). -/
def nextAction (s : State) : Action :=
  match s.hostQueue with
  | [] => if s.phase = .run then runAction s else .answer (.refused .noTransaction)
  | op :: rest =>
    if op = .reset then .answer (.next (applyReset rest s))
    else if s.phase = .run then runAction s
    else hostAction op { s with hostQueue := rest }

/-- A minimal header: one TrueColor pixel of bit depth 8. -/
def placedHeader : ImageHeader := ⟨1, 1, 8, 2, 0, 0, 0⟩

/-- An empty `IEND` chunk (R71). -/
def placedIend : Chunk := ⟨[], ⟨0, 0, 0, 0⟩⟩

/-- Place stream bytes so that the next step fetches them (log 10). A signature: at offset 0 of `IN`. A chunk: right after the
signature, with a header accepted unless the bytes are to be decoded as the first `IHDR`. A scanline: alone in `ZBUF`, in
a flush of a one-pixel image that an `IEND` opened. -/
def placeStream (nbits : Nat) (bytes : List Byte) (s : State) : State :=
  let s := { s with phase := .run, endCause := .none, err := .noError, hostQueue := [] }
  if nbits = 64 then
    { s with flow := .between, pos := 0, launch := { s.launch with streamOk := true, input := bytes } }
  else if nbits = 32 then
    let first := decide (bytes.drop 4 |>.take 4 |> (· = Config.tagIHDR.toList))
    { s with
      flow := .between
      pos := 8
      launch := { s.launch with streamOk := true, input := Config.signature ++ bytes }
      cps := if first then ⟨false, false, false, false⟩ else ⟨true, false, false, false⟩
      hdr := if first then s.hdr else placedHeader }
  else
    { s with
      flow := .flushing (.iend placedIend)
      pos := 20
      launch := { s.launch with streamOk := true
                                input := Config.signature ++ chunkBytes Config.tagIEND placedIend }
      clen := 0
      ctype := Config.tagIEND
      cps := ⟨true, true, true, false⟩
      hdr := placedHeader
      zbuf := bytes
      zidx := 0
      row := 0
      oidx := s.pixbuf.length }

end Sys2Proof.Machine
end

