-- ==== Sys2Proof/Machine/Step.lean ====
section
/-! DEFINITION. One step of the block: the action that `Fetch.lean` finds, carried out. -/

namespace Sys2Proof.Machine

/-- One step. -/
def step (s : State) : Host.Outcome State Fault Refusal :=
  match nextAction s with
  | .exec i s' => exec i s'
  | .answer r => r

/-- The state with a word of the opcode table placed where the next step fetches (`placeStream`). -/
def State.withFetchWord (s : State) (nbits w : Nat) : State :=
  match tableStream nbits w with
  | some bytes => placeStream nbits bytes s
  | none => s

end Sys2Proof.Machine
end

