-- ==== Sys2Proof/Safety.lean ====
section
/-! DEFINITION. The terms the claims use: what a safe run is, the invariant of the machine, the declarative reading of a
reconstructed scanline, and the spec's own chunk step (R105) as one indivisible function. -/

namespace Sys2Proof.Safety

open Sys2Proof.Machine

/-- A run of any length from `s` never ends in a fault of the model. -/
def Safe (s : State) : Prop := ∀ n r, Host.Core.run core n s ≠ .fault r

/-- No reset is the host's next transaction. -/
def NoReset (s : State) : Prop := s.hostQueue.head? ≠ some HostOp.reset

/-- The block took the exception `k` (R216): a next state in phase `FAULT` with that error kind. Nothing else of that state is
defined (R31), so nothing else is claimed. -/
def Faults (k : ErrKind) (r : Result) : Prop := ∃ t, r = .next t ∧ t.phase = .fault ∧ t.err = k

/-- Two outcomes that nobody can tell apart: the same, or both the same exception (R31: the rest of a `FAULT` state is no claim's
subject). -/
def Alike (r r' : Result) : Prop := r = r' ∨ ∃ k, Faults k r ∧ Faults k r'

/-- The state after the fetch of a chunk and before its checks (R103). -/
def Fetched (tag : Bytes4) (c : Chunk) (s : State) : State :=
  { s with clen := c.clen, ctype := tag, pos := s.pos + 12 + c.clen.toNat }

/-- The state after the flush of a run (R110): both buffers cleared, `IN_RUN` 0, the chunk step going on. -/
def Flushed (s : State) : State :=
  { s with idatbuf := [], zbuf := [], cps := { s.cps with inRun := false }, flow := .between }

/-- The header with its three unexamined fields replaced. -/
def otherMethods (c f i : Byte) (h : ImageHeader) : ImageHeader := { h with compression := c, filter := f, interlace := i }

/-- The state with the three unexamined header registers replaced. -/
def withMethods (c f i : Byte) (s : State) : State := { s with hdr := otherMethods c f i s.hdr }

/-- The registers that R30 leaves unwritten at reset, put back to their reset values wherever nothing has written them since, or
nothing will read them before writing them: the header until it is accepted, `ZIDX`, `OIDX` and `ROW` outside a flush, and
`CLEN`, `CTYPE` and `FT`, which are read only in the step that writes them. -/
def erase (s : State) : State :=
  { s with
    clen := State.reset.clen
    ctype := State.reset.ctype
    ft := State.reset.ft
    hdr := if s.cps.ihdrSeen then s.hdr else State.reset.hdr
    zidx := if s.flow = .between then State.reset.zidx else s.zidx
    oidx := if s.flow = .between then State.reset.oidx else s.oidx
    row := if s.flow = .between then State.reset.row else s.row }

/-- Two outcomes alike but for the registers that `erase` hides: next states that differ in those alone, the same exception, or the
same refusal. -/
def AlikeErased (r r' : Result) : Prop :=
  (∃ t t', r = .next t ∧ r' = .next t' ∧ erase t = erase t') ∨ (∃ k, Faults k r ∧ Faults k r') ∨
    ∃ x, r = .refused x ∧ r' = .refused x

/-- Two outcomes of opening a flush, for the chunks `i` and `i'`: the same exception, or next states that agree in everything but
`flow`, which names the chunk of each. -/
def AlikeOpening (i i' : Instr) (r r' : Result) : Prop :=
  (∃ k, Faults k r ∧ Faults k r') ∨
    ∃ t : State, r = .next { t with flow := .flushing i } ∧ r' = .next { t with flow := .flushing i' }

/-! ### The invariant -/

/-- The instructions whose chunk step can hold a flush once a header is accepted: every class but `IDAT` (R110), and not the
first `IHDR` (R109). -/
def endsRun : Instr → Bool
  | .iccp _ => true
  | .iend _ => true
  | .other _ _ => true
  | .sig | .ihdr _ | .idat _ => false
  | .ftNone _ | .ftSub _ | .ftUp _ | .ftAverage _ | .ftPaeth _ | .ftReserved _ _ => false
  | .start _ | .getHeader | .getImageData | .compareSize _ _ | .reverseImage => false

/-- Inside a flush (R150, R153): the engine's registers at scanline `ROW`, after `images` whole images. -/
structure FlushInv (pending : Instr) (s : State) (bpp images : Nat) : Prop where
  pending_ends_run : endsRun pending = true
  in_run : s.cps.inRun = true
  format_supported : supported s.hdr = true
  bpp_defined : bppOf s.hdr.colorType = some bpp
  zbuf_length : s.zbuf.length = s.hdr.height.toNat * rowBytesOf s.hdr bpp
  row_le : s.row ≤ s.hdr.height.toNat
  zidx_at_row : s.zidx = s.row * rowBytesOf s.hdr bpp
  oidx_at_end : s.oidx = s.pixbuf.length
  pixbuf_length : s.pixbuf.length = images * (s.hdr.height.toNat * strideOf s.hdr bpp) + s.row * strideOf s.hdr bpp

/-- Between two chunk steps (R109 (b), (c), (d)). -/
structure BoundaryInv (s : State) : Prop where
  zbuf_empty : s.zbuf = []
  idatbuf_in_run : s.idatbuf ≠ [] → s.cps.inRun = true
  pixbuf_whole_images : ∀ bpp, s.cps.ihdrSeen = true → supported s.hdr = true → bppOf s.hdr.colorType = some bpp →
    s.hdr.height.toNat * strideOf s.hdr bpp ∣ s.pixbuf.length
  pixbuf_unsupported : s.cps.ihdrSeen = true → supported s.hdr = false → s.pixbuf = []

/-- What holds of the architectural state while no error has been raised (after a fault nothing else is defined, R31). -/
structure LiveInv (s : State) : Prop where
  in_run_idat : s.cps.inRun = true → s.cps.idatSeen = true
  idat_ihdr : s.cps.idatSeen = true → s.cps.ihdrSeen = true
  iend_ihdr : s.cps.iendSeen = true → s.cps.ihdrSeen = true
  iend_end : s.cps.iendSeen = true ↔ s.endCause = .iend
  done_end : s.phase = .done ↔ s.endCause ≠ .none
  hdr_accepted : s.cps.ihdrSeen = true → s.hdr.width ≠ 0 ∧ s.hdr.height ≠ 0
  hdr_absent : s.cps.ihdrSeen = false → s.idatbuf = [] ∧ s.pixbuf = []
  pos_le : s.pos ≤ s.launch.input.length
  pos_signature : s.pos = 0 ∨ 8 ≤ s.pos
  pos_zero : s.pos = 0 → s.cps.ihdrSeen = false
  pos_done : s.phase = .done → 8 ≤ s.pos
  idle_start : s.phase = .idle → s.pos = 0 ∧ s.cps.ihdrSeen = false ∧ s.flow = .between
  boundary : s.flow = .between → BoundaryInv s
  flush : ∀ pending, s.flow = .flushing pending →
    s.phase = .run ∧ 8 ≤ s.pos ∧ ∃ bpp images, FlushInv pending s bpp images

/-- The invariant of the machine (R11, R12, R13, R109). -/
structure Inv (s : State) : Prop where
  fault_err : s.phase = .fault ↔ s.err ≠ .noError
  live : s.phase ≠ .fault → LiveInv s

/-! ### A reconstructed scanline, byte by byte (R155 to R168) -/

/-- `left` of the byte at absolute index `i` of `pix` (R156). -/
def leftAt (bpp stride : Nat) (pix : List Byte) (i : Nat) : Nat :=
  if i % stride < bpp then 0 else (pix.getD (i - bpp) 0).toNat

/-- `up` (R157). -/
def upAt (stride : Nat) (pix : List Byte) (i : Nat) : Nat :=
  if i < stride then 0 else (pix.getD (i - stride) 0).toNat

/-- `upLeft` (R158). -/
def upLeftAt (bpp stride : Nat) (pix : List Byte) (i : Nat) : Nat :=
  if i % stride < bpp ∨ i < stride then 0 else (pix.getD (i - stride - bpp) 0).toNat

/-- The Paeth predictor on naturals, written from the three distances (R168). -/
def paethNat (a b c : Nat) : Nat :=
  let pa := ((b : Int) - c).natAbs
  let pb := ((a : Int) - c).natAbs
  let pc := ((a : Int) + b - 2 * c).natAbs
  if pa ≤ pb ∧ pa ≤ pc then a else if pb ≤ pc then b else c

/-- `new` is `old` with one byte appended for each byte of `data`: byte `k` is `(f + pred) mod 256`, where `pred` is computed
from the three neighbours that `new` itself holds (R155, R160). -/
def RowAppended (bpp stride : Nat) (pred : Nat → Nat → Nat → Nat) (data old new : List Byte) : Prop :=
  new.length = old.length + data.length ∧
  (∀ i, i < old.length → new[i]? = old[i]?) ∧
  ∀ k, k < data.length →
    (new.getD (old.length + k) 0).toNat =
      ((data.getD k 0).toNat
        + pred (leftAt bpp stride new (old.length + k)) (upAt stride new (old.length + k))
            (upLeftAt bpp stride new (old.length + k))) % 256

/-! ### The chunk step of R105, as one indivisible function on the state at a boundary -/

/-- The predictors by filter type (R150). -/
def predByType (ft left up upLeft : Nat) : Nat :=
  if ft = 0 then 0
  else if ft = 1 then left
  else if ft = 2 then up
  else if ft = 3 then (left + up) / 2
  else paethNat left up upLeft

/-- The byte loop of R150: the first `n` bytes of the scanline whose filter type is `ZBUF[zidx]`. -/
def specBytes (bpp stride : Nat) (zbuf : List Byte) (zidx : Nat) : Nat → List Byte → List Byte
  | 0, pix => pix
  | n + 1, pix =>
    let pix := specBytes bpp stride zbuf zidx n pix
    let i := pix.length
    let pred := predByType (zbuf.getD zidx 0).toNat (leftAt bpp stride pix i) (upAt stride pix i)
      (upLeftAt bpp stride pix i)
    pix ++ [BitVec.ofNat 8 ((zbuf.getD (zidx + 1 + n) 0).toNat + pred)]

/-- The row loop of R150: the first `n` scanlines. -/
def specRows (bpp stride : Nat) (zbuf : List Byte) : Nat → List Byte → Except ErrKind (List Byte)
  | 0, pix => .ok pix
  | n + 1, pix =>
    match specRows bpp stride zbuf n pix with
    | .error e => .error e
    | .ok pix =>
      if 4 < (zbuf.getD (n * (1 + stride)) 0).toNat then .error .badFilterType
      else .ok (specBytes bpp stride zbuf (n * (1 + stride)) stride pix)

/-- `Reconstruct` (R150), then `MemClear(IDATBUF); MemClear(ZBUF); CPS.IN_RUN <- 0` (R110), for a decompressed stream `z`. -/
def specReconstruct (z : List Byte) (h : ImageHeader) (s : State) : Except ErrKind State :=
  if ¬ ((h.colorType = 2 ∨ h.colorType = 6) ∧ h.bitDepth = 8) then .error .unsupportedFormat
  else
    let bpp := if h.colorType = 2 then 3 else 4
    let stride := h.width.toNat * bpp
    if z.length ≠ h.height.toNat * (1 + stride) then .error .scanlineLengthMismatch
    else
      match specRows bpp stride z h.height.toNat s.pixbuf with
      | .error e => .error e
      | .ok pix =>
        .ok { s with
          pixbuf := pix
          idatbuf := []
          zbuf := []
          cps := { s.cps with inRun := false }
          zidx := z.length
          oidx := pix.length
          row := h.height.toNat
          ft := z.getD ((h.height.toNat - 1) * (1 + stride)) 0 }

/-- The flush (R110). -/
def specFlush (s : State) : Except ErrKind State :=
  match inflate s.launch.inflate s.idatbuf with
  | .dataError => .error .decompressionError
  | .memoryError => .error .decompressionError
  | .ok z => specReconstruct z s.hdr s

/-- Checks 2 and 3 and the termination test (R105), after the fetch and check 1. -/
def specClass (clen : Word) (ctype : Bytes4) (payload : List Byte) (s : State) : Except ErrKind State :=
  if s.cps.ihdrSeen = false ∧ ctype ≠ Config.tagIHDR then .error .missingHeader
  else if s.cps.ihdrSeen = false then
    if clen ≠ 13 then .error .badHeaderLength
    else if (parseHeader payload).width = 0 ∨ (parseHeader payload).height = 0 then .error .invalidDimensions
    else .ok { s with hdr := parseHeader payload, cps := { s.cps with ihdrSeen := true } }
  else if ctype = Config.tagIDAT then
    .ok { s with idatbuf := s.idatbuf ++ payload, cps := { s.cps with idatSeen := true, inRun := true } }
  else if ctype = Config.tagICCP then
    if s.cps.idatSeen = true then .error .chunkOrderingViolation else .ok s
  else if ctype = Config.tagIEND then
    .ok { s with cps := { s.cps with iendSeen := true }, endCause := .iend, phase := .done }
  else .ok s

/-- The chunk step (R105): the pseudocode, with `raise K` as the result `error K`. -/
def specChunkStep (s : State) : Except ErrKind State :=
  let b := fun k => s.launch.input.getD (s.pos + k) 0
  let clen := be32 (b 0) (b 1) (b 2) (b 3)
  let ctype : Bytes4 := ⟨b 4, b 5, b 6, b 7⟩
  if s.pos = s.launch.input.length then .ok { s with endCause := .eof, phase := .done }
  else if s.launch.input.length - s.pos < 8 then .error .truncatedChunk
  else if s.launch.input.length - s.pos - 8 < clen.toNat + 4 then .error .truncatedChunk
  else
    let payload := memRead s.launch.input (s.pos + 8) clen.toNat
    let s1 := { s with clen := clen, ctype := ctype, pos := s.pos + 12 + clen.toNat }
    if s.cps.inRun = true ∧ ctype ≠ Config.tagIDAT then
      match specFlush s1 with
      | .error e => .error e
      | .ok s2 => specClass clen ctype payload s2
    else specClass clen ctype payload s1

end Sys2Proof.Safety
end

