-- ==== Sys2Proof/Certificates/Slice0/Obligations.lean ====
section
/-! DEFINITION. The statements for the provers. Each docstring names the rule of `spec/` it formalises. -/

open Sys2Proof Sys2Proof.Machine Sys2Proof.Safety

/-! ### Reset and the machine as a whole -/

/-- The state after reset: the values that R30 states. What the registers R30 leaves "unwritten" hold is the model's choice (log 1) and
is not claimed; `UnwrittenRegistersAreNeverRead` says that it does not matter. -/
def Obligations.ResetLeavesSpecValues : Prop :=
  core.reset.phase = .idle ∧ core.reset.endCause = .none ∧ core.reset.err = .noError ∧ core.reset.pos = 0 ∧
  core.reset.cps.toBits = 0#4 ∧ core.reset.idatbuf = [] ∧ core.reset.zbuf = [] ∧ core.reset.pixbuf = []

/-- Reset may be applied in any phase, and nothing of the block survives it (R240). That the host's remaining queue and the
copies it holds are kept is the model's choice (log 4), and so are the values at reset of the registers R30 leaves unwritten (log 1). -/
def Obligations.ResetForgetsEverything : Prop :=
  ∀ (s : State) (q : List HostOp), s.hostQueue = .reset :: q →
    step s = .next { State.reset with hostQueue := q, replies := s.replies }

/-- The invariant holds at reset. -/
def Obligations.InvariantAtReset : Prop := Inv State.reset

/-- Every step keeps the invariant (R11, R12, R13, R109). -/
def Obligations.StepKeepsInvariant : Prop :=
  ∀ s t : State, Inv s → step s = .next t → Inv t

/-- From a state of the invariant no run ever reads a scanline past the end of `ZBUF` (R53) or uses an undefined `BPP` (R20). -/
def Obligations.InvariantRunsNeverFault : Prop :=
  ∀ s : State, Inv s → Safe s

/-- "No rule of the block reads one before writing it" (R30): whatever the registers hold that R30 leaves unwritten at reset, every
step does the same, and the host is refused or given the same copies. So no claim about a run can rest on the values that the
model's reset state gives them (log 1). -/
def Obligations.UnwrittenRegistersAreNeverRead : Prop :=
  ∀ s s' : State, Inv s → erase s = erase s' → AlikeErased (step s) (step s')

/-- A launch terminates (R122, R243): every state in `RUN` reaches `DONE` or `FAULT`. -/
def Obligations.LaunchTerminates : Prop :=
  ∀ s : State, Inv s → s.phase = .run → NoReset s →
    ∃ n t, Host.Core.run core n s = .next t ∧ (t.phase = .done ∨ t.phase = .fault)

/-- The chunk step of R105 is what the machine does at a boundary: run from it, the machine reaches exactly the state that the
indivisible step gives, or takes the exception it raises (R101, R224, decision D24; the model's sub-steps are log 5). -/
def Obligations.SubStepsMakeOneChunkStep : Prop :=
  ∀ s : State, Inv s → s.phase = .run → s.flow = .between → s.pos ≠ 0 → NoReset s →
    match specChunkStep s with
    | .ok t => ∃ n, Host.Core.run core (n + 1) s = .next t
    | .error k => ∃ n, Faults k (Host.Core.run core (n + 1) s)

/-- `DONE` and `FAULT` are terminal, and `ERR` is never overwritten: only reset leaves them (R11, R225). `END` is written once
(R12); in `FAULT` it is not claimed (R31). -/
def Obligations.DoneAndFaultAreTerminal : Prop :=
  ∀ s t : State, (s.phase = .done ∨ s.phase = .fault) → NoReset s → step s = .next t →
    t.phase = s.phase ∧ t.err = s.err ∧ (s.phase = .done → t.endCause = s.endCause)

/-- The header registers are immutable once a header is accepted (R17). -/
def Obligations.HeaderIsImmutable : Prop :=
  ∀ s t : State, s.cps.ihdrSeen = true → NoReset s → step s = .next t → t.phase ≠ .fault →
    t.hdr = s.hdr ∧ t.cps.ihdrSeen = true

/-- `POS` only increases and never passes `N` (R14). -/
def Obligations.PositionOnlyIncreases : Prop :=
  ∀ s t : State, Inv s → s.phase = .run → NoReset s → step s = .next t → t.phase ≠ .fault →
    s.pos ≤ t.pos ∧ t.launch = s.launch ∧ t.pos ≤ t.launch.input.length

/-- A decode only appends to `PIXBUF` (R23). -/
def Obligations.PixelsAreOnlyAppended : Prop :=
  ∀ s t : State, Inv s → s.phase = .run → NoReset s → step s = .next t → t.phase ≠ .fault →
    s.pixbuf.length ≤ t.pixbuf.length ∧ t.pixbuf.take s.pixbuf.length = s.pixbuf

/-- `COMPRESSION`, `FILTER` and `INTERLACE` are read by nothing in the block (R18, conflict C1): with other values in them, every
step of a launch does the same. -/
def Obligations.MethodBytesNeverMatter : Prop :=
  ∀ (s : State) (c f i : Byte), s.phase = .run → NoReset s → s.cps.ihdrSeen = true →
    Alike (step (withMethods c f i s))
      (match step s with
      | .next t => .next (withMethods c f i t)
      | .fault r => .fault r
      | .refused r => .refused r)

/-! ### Encodings -/

/-- Decoding the bytes of a well-formed instruction gives it back, and leaves the bytes after it (R70 to R77). -/
def Obligations.DecodeOfEncode : Prop :=
  ∀ (f : Format) (i : Instr) (bs rest : List Byte), i.wf = true → i.fits f = true → encode i = some bs →
    decode f (bs ++ rest) = .ok (i, rest)

/-- What is decoded is well-formed, fits its format, and its encoding is exactly the bytes consumed. -/
def Obligations.EncodeOfDecode : Prop :=
  ∀ (f : Format) (i : Instr) (bs rest : List Byte), decode f bs = .ok (i, rest) →
    i.wf = true ∧ i.fits f = true ∧ ∃ used, encode i = some used ∧ bs = used ++ rest

/-- The class of a chunk (R73), from its bytes as R71 lays them out. -/
def Obligations.ChunkClassByTagAndHeaderSeen : Prop :=
  ∀ (seen : Bool) (l0 l1 l2 l3 t0 t1 t2 t3 r0 r1 r2 r3 : Byte) (payload rest : List Byte),
    payload.length = 2 ^ 24 * l0.toNat + 2 ^ 16 * l1.toNat + 2 ^ 8 * l2.toNat + l3.toNat →
    decode (.chunk seen) ([l0, l1, l2, l3, t0, t1, t2, t3] ++ (payload ++ ([r0, r1, r2, r3] ++ rest))) =
      .ok (
        (if seen = false ∧ [t0, t1, t2, t3] = [0x49, 0x48, 0x44, 0x52] then .ihdr ⟨payload, ⟨r0, r1, r2, r3⟩⟩
        else if [t0, t1, t2, t3] = [0x49, 0x44, 0x41, 0x54] then .idat ⟨payload, ⟨r0, r1, r2, r3⟩⟩
        else if [t0, t1, t2, t3] = [0x69, 0x43, 0x43, 0x50] then .iccp ⟨payload, ⟨r0, r1, r2, r3⟩⟩
        else if [t0, t1, t2, t3] = [0x49, 0x45, 0x4E, 0x44] then .iend ⟨payload, ⟨r0, r1, r2, r3⟩⟩
        else .other ⟨t0, t1, t2, t3⟩ ⟨payload, ⟨r0, r1, r2, r3⟩⟩), rest)

/-- The predictor a filter type selects (R77, R81). -/
def Obligations.FilterTypeSelectsPredictor : Prop :=
  ∀ (ft : Byte) (data rest : List Byte),
    decode (.scanline data.length) (ft :: (data ++ rest)) =
      .ok ((if ft.toNat = 0 then .ftNone data
        else if ft.toNat = 1 then .ftSub data
        else if ft.toNat = 2 then .ftUp data
        else if ft.toNat = 3 then .ftAverage data
        else if ft.toNat = 4 then .ftPaeth data
        else .ftReserved ft data), rest)

/-- Words written out from the spec's encodings decode to their instructions. -/
def Obligations.SpecWordsDecode : Prop :=
  decode .sig [0x89, 0x50, 0x4E, 0x47, 0x0D, 0x0A, 0x1A, 0x0A] = .ok (.sig, []) ∧
  decode (.chunk true) [0, 0, 0, 2, 0x49, 0x44, 0x41, 0x54, 0x78, 0x01, 9, 9, 9, 9] =
    .ok (.idat ⟨[0x78, 0x01], ⟨9, 9, 9, 9⟩⟩, []) ∧
  decode (.scanline 3) [0x04, 1, 2, 3] = .ok (.ftPaeth [1, 2, 3], [])

/-! ### A step runs the decoded instruction -/

/-- At a boundary the step is `exec` of the chunk decoded at `POS` (R101, R103). -/
def Obligations.StepRunsDecodedChunk : Prop :=
  ∀ (s : State) (i : Instr) (rest : List Byte), s.phase = .run → NoReset s → s.flow = .between → s.pos ≠ 0 →
    s.pos < s.launch.input.length →
    decode (.chunk s.cps.ihdrSeen) (s.launch.input.drop s.pos) = .ok (i, rest) → step s = exec i s

/-- Inside a flush the step is `exec` of the scanline decoded at `ZIDX` while `ROW < HEIGHT` (R150, R154). -/
def Obligations.StepRunsDecodedScanline : Prop :=
  ∀ (s : State) (j i : Instr) (bpp : Nat) (rest : List Byte), s.phase = .run → NoReset s → s.flow = .flushing j →
    s.row < s.hdr.height.toNat → bppOf s.hdr.colorType = some bpp →
    decode (.scanline (s.hdr.width.toNat * bpp)) (s.zbuf.drop s.zidx) = .ok (i, rest) → step s = exec i s

/-- When the row loop has ended the step is `exec` of the chunk whose step the flush belongs to (R110 (d), R165). -/
def Obligations.StepResumesFlushingChunk : Prop :=
  ∀ (s : State) (i : Instr), s.phase = .run → NoReset s → s.flow = .flushing i → s.row = s.hdr.height.toNat →
    step s = exec i s

/-- The first step of a launch is the signature check (R101). -/
def Obligations.StepRunsSignatureFirst : Prop :=
  ∀ s : State, s.phase = .run → NoReset s → s.flow = .between → s.pos = 0 → step s = exec .sig s

/-- Outside `RUN` the step is `exec` of the host's next operation, taken from its queue (R190 to R195; the queue is the model's,
log 4). -/
def Obligations.StepRunsHostOperation : Prop :=
  ∀ (s : State) (q : List HostOp), s.phase ≠ .run →
    (∀ p, s.hostQueue = .start p :: q → step s = exec (.start p) { s with hostQueue := q }) ∧
    (s.hostQueue = .getHeader :: q → step s = exec .getHeader { s with hostQueue := q }) ∧
    (s.hostQueue = .getImageData :: q → step s = exec .getImageData { s with hostQueue := q }) ∧
    (∀ w h, s.hostQueue = .compareSize w h :: q → step s = exec (.compareSize w h) { s with hostQueue := q }) ∧
    (s.hostQueue = .reverseImage :: q → step s = exec .reverseImage { s with hostQueue := q })

/-- `TruncatedChunk` (R219): raised by the fetch exactly when length and type, or payload and trailer, are not both present;
otherwise a chunk is decoded and runs. -/
def Obligations.TruncatedChunkExactlyWhenShort : Prop :=
  ∀ s : State, s.phase = .run → NoReset s → s.flow = .between → s.pos ≠ 0 → s.pos < s.launch.input.length →
    let n := s.launch.input.length - s.pos
    let b := fun k => s.launch.input.getD (s.pos + k) 0
    ((n < 8 ∨ n - 8 < (be32 (b 0) (b 1) (b 2) (b 3)).toNat + 4) → Faults .truncatedChunk (step s)) ∧
    (¬ (n < 8 ∨ n - 8 < (be32 (b 0) (b 1) (b 2) (b 3)).toNat + 4) →
      ∃ i rest, decode (.chunk s.cps.ihdrSeen) (s.launch.input.drop s.pos) = .ok (i, rest) ∧ step s = exec i s)

/-- Termination by end of stream (R121): `DONE` with `END = EOF`, no error, no flush, nothing else changed. -/
def Obligations.EndOfStreamTerminatesWithoutFlush : Prop :=
  ∀ s : State, s.phase = .run → NoReset s → s.flow = .between → s.pos ≠ 0 → s.pos = s.launch.input.length →
    step s = .next { s with endCause := .eof, phase := .done }

/-! ### The container family -/

/-- `SIG` (R100, R212; that a stream of fewer than eight bytes is no signature is D4). -/
def Obligations.SignatureCheck : Prop :=
  ∀ s : State,
    (s.launch.input.take 8 = [0x89, 0x50, 0x4E, 0x47, 0x0D, 0x0A, 0x1A, 0x0A] →
      exec .sig s = .next { s with pos := 8 }) ∧
    ((s.launch.input.length < 8 ∨ s.launch.input.take 8 ≠ [0x89, 0x50, 0x4E, 0x47, 0x0D, 0x0A, 0x1A, 0x0A]) →
      Faults .invalidSignature (exec .sig s))

/-- `IHDR`, header parse (R112): the seven registers in host order and `IHDR_SEEN`, or `InvalidDimensions`. No other field is
examined. -/
def Obligations.FirstIhdrStoresHeader : Prop :=
  ∀ (s : State) (p0 p1 p2 p3 p4 p5 p6 p7 p8 p9 p10 p11 p12 : Byte) (crc : Bytes4),
    s.flow = .between → s.cps.ihdrSeen = false → s.cps.inRun = false →
    let c : Chunk := ⟨[p0, p1, p2, p3, p4, p5, p6, p7, p8, p9, p10, p11, p12], crc⟩
    let w := 2 ^ 24 * p0.toNat + 2 ^ 16 * p1.toNat + 2 ^ 8 * p2.toNat + p3.toNat
    let h := 2 ^ 24 * p4.toNat + 2 ^ 16 * p5.toNat + 2 ^ 8 * p6.toNat + p7.toNat
    ((w = 0 ∨ h = 0) → Faults .invalidDimensions (exec (.ihdr c) s)) ∧
    (w ≠ 0 → h ≠ 0 → exec (.ihdr c) s = .next { s with
      clen := 13
      ctype := ⟨0x49, 0x48, 0x44, 0x52⟩
      pos := s.pos + 25
      hdr := ⟨BitVec.ofNat 32 w, BitVec.ofNat 32 h, p8, p9, p10, p11, p12⟩
      cps := { s.cps with ihdrSeen := true } })

/-- `IHDR`, length check (R111): `BadHeaderLength` when `CLEN != 13`, whatever the payload holds. -/
def Obligations.FirstIhdrNeedsThirteenBytes : Prop :=
  ∀ (s : State) (c : Chunk), c.wf = true → s.flow = .between → s.cps.ihdrSeen = false → s.cps.inRun = false →
    c.payload.length ≠ 13 → Faults .badHeaderLength (exec (.ihdr c) s)

/-- `IDAT` (R113). -/
def Obligations.IdatAppendsItsPayload : Prop :=
  ∀ (s : State) (c : Chunk), s.flow = .between → s.cps.ihdrSeen = true →
    exec (.idat c) s = .next { Fetched Config.tagIDAT c s with
      idatbuf := s.idatbuf ++ c.payload, cps := { s.cps with idatSeen := true, inRun := true } }

/-- `ICCP` (R114), when no run is pending. -/
def Obligations.IccpMustPrecedeImageData : Prop :=
  ∀ (s : State) (c : Chunk), s.flow = .between → s.cps.ihdrSeen = true → s.cps.inRun = false →
    (s.cps.idatSeen = true → Faults .chunkOrderingViolation (exec (.iccp c) s)) ∧
    (s.cps.idatSeen = false → exec (.iccp c) s = .next (Fetched Config.tagICCP c s))

/-- `OTHER` (R115), when no run is pending: the fetch's effects only, for every tag, that of a later `IHDR` included. -/
def Obligations.OtherChunkIsDiscarded : Prop :=
  ∀ (s : State) (tag : Bytes4) (c : Chunk), s.flow = .between → s.cps.ihdrSeen = true → s.cps.inRun = false →
    exec (.other tag c) s = .next (Fetched tag c s)

/-- `IEND` (R116) and termination (R120), when no run is pending. -/
def Obligations.IendTerminates : Prop :=
  ∀ (s : State) (c : Chunk), s.flow = .between → s.cps.ihdrSeen = true → s.cps.inRun = false →
    exec (.iend c) s = .next { Fetched Config.tagIEND c s with
      cps := { s.cps with iendSeen := true }, endCause := .iend, phase := .done }

/-- `MissingHeader` (R117): every chunk but an `IHDR`, before a header is accepted. -/
def Obligations.MissingHeaderBeforeIhdr : Prop :=
  ∀ (s : State) (tag : Bytes4) (c : Chunk), s.flow = .between → s.cps.ihdrSeen = false → s.cps.inRun = false →
    Faults .missingHeader (exec (.idat c) s) ∧ Faults .missingHeader (exec (.iccp c) s) ∧
    Faults .missingHeader (exec (.iend c) s) ∧ Faults .missingHeader (exec (.other tag c) s)

/-- Check 1, the flush's opening (R110, R143, R151, R152), for every chunk that ends a run, with its errors in their order:
`DecompressionError`, `UnsupportedFormat`, `ScanlineLengthMismatch`; else the engine is entered with the fetch's effects made. -/
def Obligations.RunEndOpensFlush : Prop :=
  ∀ (s : State) (tag : Bytes4) (c : Chunk) (i : Instr),
    (i = .iccp c ∧ tag = Config.tagICCP ∨ i = .iend c ∧ tag = Config.tagIEND ∨
      i = .other tag c ∧ tag ≠ Config.tagIDAT) →
    s.flow = .between → s.cps.inRun = true →
    let h := s.hdr
    let bpp := if h.colorType = 2 then 3 else 4
    let ok := (h.colorType = 2 ∨ h.colorType = 6) ∧ h.bitDepth = 8
    ((inflate s.launch.inflate s.idatbuf = .dataError ∨ inflate s.launch.inflate s.idatbuf = .memoryError) →
      Faults .decompressionError (exec i s)) ∧
    ∀ z, inflate s.launch.inflate s.idatbuf = .ok z →
      (¬ ok → Faults .unsupportedFormat (exec i s)) ∧
      (ok → z.length ≠ h.height.toNat * (1 + h.width.toNat * bpp) → Faults .scanlineLengthMismatch (exec i s)) ∧
      (ok → z.length = h.height.toNat * (1 + h.width.toNat * bpp) →
        exec i s = .next { Fetched tag c s with
          zbuf := z, zidx := 0, row := 0, oidx := s.pixbuf.length, flow := .flushing i })

/-- The flush's end (R110): both buffers cleared, `IN_RUN` cleared, and the triggering chunk "is then executed normally by checks
2 and 3". -/
def Obligations.FlushEndRunsTheChunk : Prop :=
  ∀ (s : State) (j : Instr) (tag : Bytes4) (c : Chunk), s.flow = .flushing j → s.cps.ihdrSeen = true →
    (s.cps.idatSeen = true → Faults .chunkOrderingViolation (exec (.iccp c) s)) ∧
    (s.cps.idatSeen = false → exec (.iccp c) s = .next (Flushed s)) ∧
    exec (.other tag c) s = .next (Flushed s) ∧
    exec (.iend c) s = .next { Flushed s with
      cps := { s.cps with inRun := false, iendSeen := true }, endCause := .iend, phase := .done }

/-- The trailer is consumed but not validated (R104): chunks that differ in it alone do the same, in every state. A chunk that ends a
run remembers itself in the model's `flow` until its flush is over (log 5), so there the next states agree in everything else. -/
def Obligations.TrailerTakesNoPart : Prop :=
  ∀ (s : State) (tag : Bytes4) (p : List Byte) (crc crc' : Bytes4),
    let c : Chunk := ⟨p, crc⟩
    let c' : Chunk := ⟨p, crc'⟩
    Alike (exec (.idat c) s) (exec (.idat c') s) ∧
    (s.cps.inRun = false ∨ s.flow ≠ .between ∨ tag = Config.tagIDAT →
      Alike (exec (.other tag c) s) (exec (.other tag c') s)) ∧
    (s.cps.inRun = false ∨ s.flow ≠ .between →
      Alike (exec (.ihdr c) s) (exec (.ihdr c') s) ∧ Alike (exec (.iccp c) s) (exec (.iccp c') s) ∧
      Alike (exec (.iend c) s) (exec (.iend c') s)) ∧
    (s.cps.inRun = true → s.flow = .between →
      AlikeOpening (.ihdr c) (.ihdr c') (exec (.ihdr c) s) (exec (.ihdr c') s) ∧
      AlikeOpening (.iccp c) (.iccp c') (exec (.iccp c) s) (exec (.iccp c') s) ∧
      AlikeOpening (.iend c) (.iend c') (exec (.iend c) s) (exec (.iend c') s) ∧
      (tag ≠ Config.tagIDAT → AlikeOpening (.other tag c) (.other tag c') (exec (.other tag c) s) (exec (.other tag c') s)))

/-! ### The scanline family -/

/-- `NONE` (R161): the filtered bytes are appended unchanged. -/
def Obligations.NoneRowIsCopied : Prop :=
  ∀ (s : State) (data : List Byte), (s.hdr.colorType = 2 ∨ s.hdr.colorType = 6) →
    exec (.ftNone data) s = .next { s with
      ft := 0, zidx := s.zidx + 1 + data.length, row := s.row + 1
      oidx := s.pixbuf.length + data.length, pixbuf := s.pixbuf ++ data }

/-- `SUB` (R162): `pred = left`, in a row of the image. -/
def Obligations.SubRowAddsLeft : Prop :=
  ∀ (s : State) (bpp : Nat) (data : List Byte), s.hdr.width ≠ 0 →
    (s.hdr.colorType = 2 ∧ bpp = 3 ∨ s.hdr.colorType = 6 ∧ bpp = 4) →
    ∃ new, RowAppended bpp (s.hdr.width.toNat * bpp) (fun left _ _ => left) data s.pixbuf new ∧
      exec (.ftSub data) s = .next { s with
        ft := 1, zidx := s.zidx + 1 + data.length, row := s.row + 1
        oidx := s.pixbuf.length + data.length, pixbuf := new }

/-- `UP` (R163): `pred = up`. -/
def Obligations.UpRowAddsUp : Prop :=
  ∀ (s : State) (bpp : Nat) (data : List Byte), s.hdr.width ≠ 0 →
    (s.hdr.colorType = 2 ∧ bpp = 3 ∨ s.hdr.colorType = 6 ∧ bpp = 4) →
    ∃ new, RowAppended bpp (s.hdr.width.toNat * bpp) (fun _ up _ => up) data s.pixbuf new ∧
      exec (.ftUp data) s = .next { s with
        ft := 2, zidx := s.zidx + 1 + data.length, row := s.row + 1
        oidx := s.pixbuf.length + data.length, pixbuf := new }

/-- `AVERAGE` (R164): `pred = floor((left + up) / 2)`, the sum at full width. -/
def Obligations.AverageRowAddsWideMean : Prop :=
  ∀ (s : State) (bpp : Nat) (data : List Byte), s.hdr.width ≠ 0 →
    (s.hdr.colorType = 2 ∧ bpp = 3 ∨ s.hdr.colorType = 6 ∧ bpp = 4) →
    ∃ new, RowAppended bpp (s.hdr.width.toNat * bpp) (fun left up _ => (left + up) / 2) data s.pixbuf new ∧
      exec (.ftAverage data) s = .next { s with
        ft := 3, zidx := s.zidx + 1 + data.length, row := s.row + 1
        oidx := s.pixbuf.length + data.length, pixbuf := new }

/-- `PAETH` (R167): `pred = calcPaeth(left, up, upLeft)`. -/
def Obligations.PaethRowAddsNearest : Prop :=
  ∀ (s : State) (bpp : Nat) (data : List Byte), s.hdr.width ≠ 0 →
    (s.hdr.colorType = 2 ∧ bpp = 3 ∨ s.hdr.colorType = 6 ∧ bpp = 4) →
    ∃ new, RowAppended bpp (s.hdr.width.toNat * bpp) paethNat data s.pixbuf new ∧
      exec (.ftPaeth data) s = .next { s with
        ft := 4, zidx := s.zidx + 1 + data.length, row := s.row + 1
        oidx := s.pixbuf.length + data.length, pixbuf := new }

/-- `FT_RESERVED` (R166): `BadFilterType`. -/
def Obligations.ReservedFilterTypeFaults : Prop :=
  ∀ (s : State) (ft : Byte) (data : List Byte), 4 < ft.toNat → Faults .badFilterType (exec (.ftReserved ft data) s)

/-- `calcPaeth` (R168): the argument nearest to `p = a + b - c`, ties to a, then b, then c. The first three clauses and the law for
`a = b = c` are R168's; the identities of `pa`, `pb`, `pc` and the laws for two zero arguments are marked derived there; that no
argument is nearer to `p` is the model's own inference. -/
def Obligations.CalcPaethPicksNearest : Prop :=
  ∀ a b c : Byte,
    let p : Int := (a.toNat : Int) + b.toNat - c.toNat
    let pa := |p - a.toNat|
    let pb := |p - b.toNat|
    let pc := |p - c.toNat|
    (pa ≤ pb → pa ≤ pc → calcPaeth a b c = a) ∧
    (¬ (pa ≤ pb ∧ pa ≤ pc) → pb ≤ pc → calcPaeth a b c = b) ∧
    (¬ (pa ≤ pb ∧ pa ≤ pc) → ¬ pb ≤ pc → calcPaeth a b c = c) ∧
    |p - (calcPaeth a b c).toNat| ≤ pa ∧ |p - (calcPaeth a b c).toNat| ≤ pb ∧ |p - (calcPaeth a b c).toNat| ≤ pc ∧
    pa = |(b.toNat : Int) - c.toNat| ∧ pb = |(a.toNat : Int) - c.toNat| ∧
    pc = |(a.toNat : Int) + b.toNat - 2 * c.toNat| ∧
    calcPaeth a a a = a ∧ calcPaeth a 0 0 = a ∧ calcPaeth 0 b 0 = b

/-! ### The host family -/

/-- `START` (R190): the launch is opened, or `IOError`, or, outside `IDLE`, refused. -/
def Obligations.StartOpensTheLaunch : Prop :=
  ∀ (s : State) (p : LaunchParams),
    (s.phase = .idle → p.streamOk = true → exec (.start p) s = .next { s with launch := p, phase := .run }) ∧
    (s.phase = .idle → p.streamOk = false → Faults .ioError (exec (.start p) s)) ∧
    (s.phase ≠ .idle → exec (.start p) s = .refused .startOutsideIdle)

/-- `getHeader` (R192): a copy of the seven registers, refused without a parsed header. That the copy is appended to `replies`, and that
nothing else changes with it, is the model's form of a delivery (log 4). -/
def Obligations.GetHeaderDeliversCopy : Prop :=
  ∀ s : State, s.phase = .done →
    (s.cps.ihdrSeen = true → exec .getHeader s = .next { s with replies := s.replies ++ [.header s.hdr] }) ∧
    (s.cps.ihdrSeen = false → exec .getHeader s = .refused .headerNotParsed)

/-- `getImageData` (R193): the whole of `PIXBUF`, as it is. That the copy is appended to `replies` is the model's form of a delivery
(log 4). -/
def Obligations.GetImageDataDeliversCopy : Prop :=
  ∀ s : State, s.phase = .done →
    exec .getImageData s = .next { s with replies := s.replies ++ [.imageData s.pixbuf] }

/-- `compareSize` (R195): `Success` iff both dimensions match, refused without a parsed header. That the result is appended to `replies`
is the model's form of a delivery (log 4). -/
def Obligations.CompareSizeMatchesBoth : Prop :=
  ∀ (s : State) (w h : Word), s.phase = .done →
    (s.cps.ihdrSeen = true →
      (w = s.hdr.width ∧ h = s.hdr.height → exec (.compareSize w h) s =
        .next { s with replies := s.replies ++ [.size .success] }) ∧
      (¬ (w = s.hdr.width ∧ h = s.hdr.height) → exec (.compareSize w h) s =
        .next { s with replies := s.replies ++ [.size .fail] })) ∧
    (s.cps.ihdrSeen = false → exec (.compareSize w h) s = .refused .headerNotParsed)

/-- `reverseImage` (R194), for `COMPLETE` and `BPP = 4`: new row `y` is old row `HEIGHT - 1 - y`, bytes within a row unchanged,
`len(PIXBUF)` and every register unchanged. -/
def Obligations.ReverseImageFlipsRows : Prop :=
  ∀ s : State, s.phase = .done → s.cps.ihdrSeen = true → s.hdr.colorType = 6 → s.hdr.bitDepth = 8 →
    s.pixbuf.length = s.hdr.width.toNat * s.hdr.height.toNat * 4 →
    ∃ new, exec .reverseImage s = .next { s with pixbuf := new } ∧ new.length = s.pixbuf.length ∧
      ∀ y k, y < s.hdr.height.toNat → k < s.hdr.width.toNat * 4 →
        new[y * (s.hdr.width.toNat * 4) + k]? =
          s.pixbuf[(s.hdr.height.toNat - 1 - y) * (s.hdr.width.toNat * 4) + k]?

/-- "Two consecutive calls restore the original buffer, for every height" (R194, conflict C5). -/
def Obligations.ReverseImageTwiceRestores : Prop :=
  ∀ s t : State, exec .reverseImage s = .next t → exec .reverseImage t = .next s

/-- `reverseImage` in all other cases of `DONE` (R196): refused. -/
def Obligations.ReverseImageRefusedOtherwise : Prop :=
  ∀ s : State, s.phase = .done →
    (s.complete = false ∨ s.hdr.colorType = 2) →
    exec .reverseImage s = .refused .reverseUndefined

/-- `COMPLETE` (R25), from its definition in the spec. -/
def Obligations.CompleteMeansWholeImage : Prop :=
  ∀ s : State, s.complete = true ↔
    s.phase = .done ∧ s.cps.ihdrSeen = true ∧ s.hdr.bitDepth = 8 ∧
      ((s.hdr.colorType = 2 ∧ s.pixbuf.length = s.hdr.width.toNat * s.hdr.height.toNat * 3) ∨
        (s.hdr.colorType = 6 ∧ s.pixbuf.length = s.hdr.width.toNat * s.hdr.height.toNat * 4))

/-- The result operations are refused outside `DONE` (R191). -/
def Obligations.ResultsOnlyInDone : Prop :=
  ∀ (s : State) (w h : Word), s.phase ≠ .done →
    exec .getHeader s = .refused .resultUnavailable ∧ exec .getImageData s = .refused .resultUnavailable ∧
    exec (.compareSize w h) s = .refused .resultUnavailable ∧ exec .reverseImage s = .refused .resultUnavailable

/-- The status reads (R197): `PHASE` and `ERR` in every phase in which the host acts; `END` and `CPS` not in `FAULT` (R191). That `END` and
`CPS` are delivered in `IDLE` is the model's choice (log 13), and so are the queue and the replies (log 4). -/
def Obligations.StatusReadsByPhase : Prop :=
  ∀ (s : State) (q : List HostOp), s.phase ≠ .run →
    (s.hostQueue = .readPhase :: q →
      step s = .next { s with hostQueue := q, replies := s.replies ++ [.phase s.phase] }) ∧
    (s.hostQueue = .readErr :: q → step s = .next { s with hostQueue := q, replies := s.replies ++ [.err s.err] }) ∧
    (s.phase ≠ .fault → s.hostQueue = .readEnd :: q →
      step s = .next { s with hostQueue := q, replies := s.replies ++ [.endCause s.endCause] }) ∧
    (s.phase ≠ .fault → s.hostQueue = .readCps :: q →
      step s = .next { s with hostQueue := q, replies := s.replies ++ [.cps s.cps] }) ∧
    (s.phase = .fault → s.hostQueue = .readEnd :: q → step s = .refused .resultUnavailable) ∧
    (s.phase = .fault → s.hostQueue = .readCps :: q → step s = .refused .resultUnavailable)

/-! ### Exceptions and status -/

/-- The codes this spec assigns (R11, R12, R15, R210). -/
def Obligations.StatusCodes : Prop :=
  [Phase.idle, .run, .done, .fault].map Phase.code = [0, 1, 2, 3] ∧
  [EndCause.none, .iend, .eof].map EndCause.code = [0, 1, 2] ∧
  [ErrKind.noError, .ioError, .invalidSignature, .missingHeader, .invalidDimensions, .unsupportedFormat,
    .chunkOrderingViolation, .decompressionError, .truncatedChunk, .badHeaderLength, .scanlineLengthMismatch,
    .badFilterType].map ErrKind.code = [0, 1, 2, 3, 4, 5, 6, 7, 8, 9, 10, 11] ∧
  ∀ c : Cps, (c.toBits.getLsbD 0 = c.ihdrSeen ∧ c.toBits.getLsbD 1 = c.idatSeen ∧ c.toBits.getLsbD 2 = c.inRun ∧
    c.toBits.getLsbD 3 = c.iendSeen)

/-- `FAULT` is entered with an error kind and left by nothing (R13, R216): a step of a launch either keeps `ERR = NoError` or ends
the launch with a kind of the taxonomy. -/
def Obligations.ErrorsEndTheLaunch : Prop :=
  ∀ s t : State, Inv s → s.phase = .run → NoReset s → step s = .next t →
    (t.err = .noError ∧ (t.phase = .run ∨ t.phase = .done)) ∨
      (t.err ≠ .noError ∧ t.phase = .fault)
end

