-- ==== Sys2Proof/Laws/Decode.lean ====
section
/-! SUPPORT. The byte-order helpers and the classes of the decoder. -/

namespace Sys2Proof

theorem be32_toNat (b0 b1 b2 b3 : Byte) :
    (be32 b0 b1 b2 b3).toNat = 2 ^ 24 * b0.toNat + 2 ^ 16 * b1.toNat + 2 ^ 8 * b2.toNat + b3.toNat := by
  have := b0.isLt; have := b1.isLt; have := b2.isLt; have := b3.isLt
  rw [be32, BitVec.toNat_ofNat]; omega

/-- Reading the four bytes of a word gives it back. -/
theorem be32_bytes_of_word (w : Word) :
    be32 (BitVec.ofNat 8 (w.toNat / 2 ^ 24)) (BitVec.ofNat 8 (w.toNat / 2 ^ 16)) (BitVec.ofNat 8 (w.toNat / 2 ^ 8))
      (BitVec.ofNat 8 w.toNat) = w := by
  apply BitVec.eq_of_toNat_eq
  have := w.isLt
  rw [be32_toNat]; simp only [BitVec.toNat_ofNat]; omega

/-- Writing the four bytes that a word was read from gives them back. -/
theorem wordBytes_be32 (b0 b1 b2 b3 : Byte) : wordBytes (be32 b0 b1 b2 b3) = [b0, b1, b2, b3] := by
  have := b0.isLt; have := b1.isLt; have := b2.isLt; have := b3.isLt
  have h0 : BitVec.ofNat 8 ((be32 b0 b1 b2 b3).toNat / 2 ^ 24) = b0 := by
    apply BitVec.eq_of_toNat_eq; rw [BitVec.toNat_ofNat, be32_toNat]; omega
  have h1 : BitVec.ofNat 8 ((be32 b0 b1 b2 b3).toNat / 2 ^ 16) = b1 := by
    apply BitVec.eq_of_toNat_eq; rw [BitVec.toNat_ofNat, be32_toNat]; omega
  have h2 : BitVec.ofNat 8 ((be32 b0 b1 b2 b3).toNat / 2 ^ 8) = b2 := by
    apply BitVec.eq_of_toNat_eq; rw [BitVec.toNat_ofNat, be32_toNat]; omega
  have h3 : BitVec.ofNat 8 (be32 b0 b1 b2 b3).toNat = b3 := by
    apply BitVec.eq_of_toNat_eq; rw [BitVec.toNat_ofNat, be32_toNat]; omega
  rw [wordBytes, h0, h1, h2, h3]

@[simp] theorem wordBytes_length (w : Word) : (wordBytes w).length = 4 := rfl

@[simp] theorem Bytes4.toList_length (t : Bytes4) : t.toList.length = 4 := rfl

theorem Chunk.clen_toNat {c : Chunk} (h : c.wf = true) : c.clen.toNat = c.payload.length := by
  have h : c.payload.length < 2 ^ 32 := by simpa [Chunk.wf] using h
  rw [Chunk.clen, BitVec.toNat_ofNat, Nat.mod_eq_of_lt h]

/-- A chunk occupies `12 + CLEN` bytes (R82). -/
theorem chunkBytes_length (tag : Bytes4) (c : Chunk) : (chunkBytes tag c).length = 12 + c.payload.length := by
  simp [chunkBytes]; omega

/-- The instruction that a chunk's bytes decode to, whatever follows them (R71, R73). -/
theorem decodeChunk_chunkBytes (seen : Bool) (tag : Bytes4) {c : Chunk} (hc : c.wf = true) (rest : List Byte) :
    decodeChunk seen (chunkBytes tag c ++ rest) = .ok (chunkClass seen tag c, rest) := by
  obtain ⟨payload, r0, r1, r2, r3⟩ := c
  have hlen := Chunk.clen_toNat hc
  obtain ⟨t0, t1, t2, t3⟩ := tag
  simp only [chunkBytes, wordBytes, Bytes4.toList, List.cons_append, List.nil_append, List.append_assoc, decodeChunk,
    be32_bytes_of_word]
  simp only [hlen, List.drop_left, List.take_left]

/-- What `decodeChunk` accepts, said once. -/
theorem decodeChunk_ok {seen : Bool} {bs rest : List Byte} {i : Instr} (h : decodeChunk seen bs = .ok (i, rest)) :
    ∃ tag c, c.wf = true ∧ i = chunkClass seen tag c ∧ bs = chunkBytes tag c ++ rest := by
  unfold decodeChunk at h
  split at h
  · next l0 l1 l2 l3 t0 t1 t2 t3 body =>
    split at h
    · next r0 r1 r2 r3 rest' hd =>
      have hlen := congrArg List.length hd
      simp only [List.length_drop, List.length_cons] at hlen
      have htl : (body.take (be32 l0 l1 l2 l3).toNat).length = (be32 l0 l1 l2 l3).toNat := by
        rw [List.length_take]; omega
      have hclen : (⟨body.take (be32 l0 l1 l2 l3).toNat, ⟨r0, r1, r2, r3⟩⟩ : Chunk).clen = be32 l0 l1 l2 l3 := by
        simp only [Chunk.clen, htl, BitVec.ofNat_toNat, BitVec.setWidth_eq]
      simp only [Except.ok.injEq, Prod.mk.injEq] at h
      refine ⟨⟨t0, t1, t2, t3⟩, ⟨body.take (be32 l0 l1 l2 l3).toNat, ⟨r0, r1, r2, r3⟩⟩, ?_, h.1.symm, ?_⟩
      · simp only [Chunk.wf, htl]; exact decide_eq_true (be32 l0 l1 l2 l3).isLt
      · rw [chunkBytes, hclen, wordBytes_be32, ← h.2]
        simp only [Bytes4.toList, List.cons_append, List.nil_append, List.append_assoc, List.cons.injEq, true_and]
        rw [← hd, List.take_append_drop]
    · cases h
  · cases h

/-- What `decodeScanline` accepts, said once. -/
theorem decodeScanline_ok {n : Nat} {bs rest : List Byte} {i : Instr} (h : decodeScanline n bs = .ok (i, rest)) :
    ∃ ft data, data.length = n ∧ i = scanlineClass ft data ∧ bs = ft :: (data ++ rest) := by
  unfold decodeScanline at h
  split at h
  · next ft body =>
    split at h
    · cases h
    · next hl =>
      simp only [Except.ok.injEq, Prod.mk.injEq] at h
      refine ⟨ft, body.take n, by rw [List.length_take]; omega, h.1.symm, ?_⟩
      rw [← h.2, List.take_append_drop]
  · cases h

theorem decodeScanline_cons (ft : Byte) (data rest : List Byte) :
    decodeScanline data.length (ft :: (data ++ rest)) = .ok (scanlineClass ft data, rest) := by
  simp [decodeScanline]

end Sys2Proof
end

