-- ==== Sys2Proof/Laws/State.lean ====
section
/-! SUPPORT. One lemma per field per update of the state, and per flag per setter of `CPS`; each is true by `rfl`, so that no
proof unfolds an update. -/

namespace Sys2Proof.Machine

/-! ### `raise` -/

@[simp] theorem raise_phase (k : ErrKind) (s : State) : (raise k s).phase = .fault := rfl
@[simp] theorem raise_endCause (k : ErrKind) (s : State) : (raise k s).endCause = s.endCause := rfl
@[simp] theorem raise_err (k : ErrKind) (s : State) : (raise k s).err = k := rfl
@[simp] theorem raise_pos (k : ErrKind) (s : State) : (raise k s).pos = s.pos := rfl
@[simp] theorem raise_cps (k : ErrKind) (s : State) : (raise k s).cps = s.cps := rfl
@[simp] theorem raise_clen (k : ErrKind) (s : State) : (raise k s).clen = s.clen := rfl
@[simp] theorem raise_ctype (k : ErrKind) (s : State) : (raise k s).ctype = s.ctype := rfl
@[simp] theorem raise_hdr (k : ErrKind) (s : State) : (raise k s).hdr = s.hdr := rfl
@[simp] theorem raise_idatbuf (k : ErrKind) (s : State) : (raise k s).idatbuf = s.idatbuf := rfl
@[simp] theorem raise_zbuf (k : ErrKind) (s : State) : (raise k s).zbuf = s.zbuf := rfl
@[simp] theorem raise_pixbuf (k : ErrKind) (s : State) : (raise k s).pixbuf = s.pixbuf := rfl
@[simp] theorem raise_zidx (k : ErrKind) (s : State) : (raise k s).zidx = s.zidx := rfl
@[simp] theorem raise_oidx (k : ErrKind) (s : State) : (raise k s).oidx = s.oidx := rfl
@[simp] theorem raise_row (k : ErrKind) (s : State) : (raise k s).row = s.row := rfl
@[simp] theorem raise_ft (k : ErrKind) (s : State) : (raise k s).ft = s.ft := rfl
@[simp] theorem raise_launch (k : ErrKind) (s : State) : (raise k s).launch = s.launch := rfl
@[simp] theorem raise_flow (k : ErrKind) (s : State) : (raise k s).flow = .between := rfl
@[simp] theorem raise_hostQueue (k : ErrKind) (s : State) : (raise k s).hostQueue = s.hostQueue := rfl
@[simp] theorem raise_replies (k : ErrKind) (s : State) : (raise k s).replies = s.replies := rfl

/-! ### `latchChunk` -/

@[simp] theorem latchChunk_phase (tag : Bytes4) (c : Chunk) (s : State) : (latchChunk tag c s).phase = s.phase := rfl
@[simp] theorem latchChunk_endCause (tag : Bytes4) (c : Chunk) (s : State) : (latchChunk tag c s).endCause = s.endCause := rfl
@[simp] theorem latchChunk_err (tag : Bytes4) (c : Chunk) (s : State) : (latchChunk tag c s).err = s.err := rfl
@[simp] theorem latchChunk_pos (tag : Bytes4) (c : Chunk) (s : State) : (latchChunk tag c s).pos = s.pos + 12 + c.clen.toNat := rfl
@[simp] theorem latchChunk_cps (tag : Bytes4) (c : Chunk) (s : State) : (latchChunk tag c s).cps = s.cps := rfl
@[simp] theorem latchChunk_clen (tag : Bytes4) (c : Chunk) (s : State) : (latchChunk tag c s).clen = c.clen := rfl
@[simp] theorem latchChunk_ctype (tag : Bytes4) (c : Chunk) (s : State) : (latchChunk tag c s).ctype = tag := rfl
@[simp] theorem latchChunk_hdr (tag : Bytes4) (c : Chunk) (s : State) : (latchChunk tag c s).hdr = s.hdr := rfl
@[simp] theorem latchChunk_idatbuf (tag : Bytes4) (c : Chunk) (s : State) : (latchChunk tag c s).idatbuf = s.idatbuf := rfl
@[simp] theorem latchChunk_zbuf (tag : Bytes4) (c : Chunk) (s : State) : (latchChunk tag c s).zbuf = s.zbuf := rfl
@[simp] theorem latchChunk_pixbuf (tag : Bytes4) (c : Chunk) (s : State) : (latchChunk tag c s).pixbuf = s.pixbuf := rfl
@[simp] theorem latchChunk_zidx (tag : Bytes4) (c : Chunk) (s : State) : (latchChunk tag c s).zidx = s.zidx := rfl
@[simp] theorem latchChunk_oidx (tag : Bytes4) (c : Chunk) (s : State) : (latchChunk tag c s).oidx = s.oidx := rfl
@[simp] theorem latchChunk_row (tag : Bytes4) (c : Chunk) (s : State) : (latchChunk tag c s).row = s.row := rfl
@[simp] theorem latchChunk_ft (tag : Bytes4) (c : Chunk) (s : State) : (latchChunk tag c s).ft = s.ft := rfl
@[simp] theorem latchChunk_launch (tag : Bytes4) (c : Chunk) (s : State) : (latchChunk tag c s).launch = s.launch := rfl
@[simp] theorem latchChunk_flow (tag : Bytes4) (c : Chunk) (s : State) : (latchChunk tag c s).flow = s.flow := rfl
@[simp] theorem latchChunk_hostQueue (tag : Bytes4) (c : Chunk) (s : State) : (latchChunk tag c s).hostQueue = s.hostQueue := rfl
@[simp] theorem latchChunk_replies (tag : Bytes4) (c : Chunk) (s : State) : (latchChunk tag c s).replies = s.replies := rfl

/-! ### `endFlush` -/

@[simp] theorem endFlush_phase (s : State) : (endFlush s).phase = s.phase := rfl
@[simp] theorem endFlush_endCause (s : State) : (endFlush s).endCause = s.endCause := rfl
@[simp] theorem endFlush_err (s : State) : (endFlush s).err = s.err := rfl
@[simp] theorem endFlush_pos (s : State) : (endFlush s).pos = s.pos := rfl
@[simp] theorem endFlush_cps (s : State) : (endFlush s).cps = s.cps.endRun := rfl
@[simp] theorem endFlush_clen (s : State) : (endFlush s).clen = s.clen := rfl
@[simp] theorem endFlush_ctype (s : State) : (endFlush s).ctype = s.ctype := rfl
@[simp] theorem endFlush_hdr (s : State) : (endFlush s).hdr = s.hdr := rfl
@[simp] theorem endFlush_idatbuf (s : State) : (endFlush s).idatbuf = [] := rfl
@[simp] theorem endFlush_zbuf (s : State) : (endFlush s).zbuf = [] := rfl
@[simp] theorem endFlush_pixbuf (s : State) : (endFlush s).pixbuf = s.pixbuf := rfl
@[simp] theorem endFlush_zidx (s : State) : (endFlush s).zidx = s.zidx := rfl
@[simp] theorem endFlush_oidx (s : State) : (endFlush s).oidx = s.oidx := rfl
@[simp] theorem endFlush_row (s : State) : (endFlush s).row = s.row := rfl
@[simp] theorem endFlush_ft (s : State) : (endFlush s).ft = s.ft := rfl
@[simp] theorem endFlush_launch (s : State) : (endFlush s).launch = s.launch := rfl
@[simp] theorem endFlush_flow (s : State) : (endFlush s).flow = .between := rfl
@[simp] theorem endFlush_hostQueue (s : State) : (endFlush s).hostQueue = s.hostQueue := rfl
@[simp] theorem endFlush_replies (s : State) : (endFlush s).replies = s.replies := rfl

/-! ### `endOfStream` -/

@[simp] theorem endOfStream_phase (s : State) : (endOfStream s).phase = .done := rfl
@[simp] theorem endOfStream_endCause (s : State) : (endOfStream s).endCause = .eof := rfl
@[simp] theorem endOfStream_err (s : State) : (endOfStream s).err = s.err := rfl
@[simp] theorem endOfStream_pos (s : State) : (endOfStream s).pos = s.pos := rfl
@[simp] theorem endOfStream_cps (s : State) : (endOfStream s).cps = s.cps := rfl
@[simp] theorem endOfStream_clen (s : State) : (endOfStream s).clen = s.clen := rfl
@[simp] theorem endOfStream_ctype (s : State) : (endOfStream s).ctype = s.ctype := rfl
@[simp] theorem endOfStream_hdr (s : State) : (endOfStream s).hdr = s.hdr := rfl
@[simp] theorem endOfStream_idatbuf (s : State) : (endOfStream s).idatbuf = s.idatbuf := rfl
@[simp] theorem endOfStream_zbuf (s : State) : (endOfStream s).zbuf = s.zbuf := rfl
@[simp] theorem endOfStream_pixbuf (s : State) : (endOfStream s).pixbuf = s.pixbuf := rfl
@[simp] theorem endOfStream_zidx (s : State) : (endOfStream s).zidx = s.zidx := rfl
@[simp] theorem endOfStream_oidx (s : State) : (endOfStream s).oidx = s.oidx := rfl
@[simp] theorem endOfStream_row (s : State) : (endOfStream s).row = s.row := rfl
@[simp] theorem endOfStream_ft (s : State) : (endOfStream s).ft = s.ft := rfl
@[simp] theorem endOfStream_launch (s : State) : (endOfStream s).launch = s.launch := rfl
@[simp] theorem endOfStream_flow (s : State) : (endOfStream s).flow = s.flow := rfl
@[simp] theorem endOfStream_hostQueue (s : State) : (endOfStream s).hostQueue = s.hostQueue := rfl
@[simp] theorem endOfStream_replies (s : State) : (endOfStream s).replies = s.replies := rfl

/-! ### `deliver` -/

@[simp] theorem deliver_phase (r : HostReply) (s : State) : (deliver r s).phase = s.phase := rfl
@[simp] theorem deliver_endCause (r : HostReply) (s : State) : (deliver r s).endCause = s.endCause := rfl
@[simp] theorem deliver_err (r : HostReply) (s : State) : (deliver r s).err = s.err := rfl
@[simp] theorem deliver_pos (r : HostReply) (s : State) : (deliver r s).pos = s.pos := rfl
@[simp] theorem deliver_cps (r : HostReply) (s : State) : (deliver r s).cps = s.cps := rfl
@[simp] theorem deliver_clen (r : HostReply) (s : State) : (deliver r s).clen = s.clen := rfl
@[simp] theorem deliver_ctype (r : HostReply) (s : State) : (deliver r s).ctype = s.ctype := rfl
@[simp] theorem deliver_hdr (r : HostReply) (s : State) : (deliver r s).hdr = s.hdr := rfl
@[simp] theorem deliver_idatbuf (r : HostReply) (s : State) : (deliver r s).idatbuf = s.idatbuf := rfl
@[simp] theorem deliver_zbuf (r : HostReply) (s : State) : (deliver r s).zbuf = s.zbuf := rfl
@[simp] theorem deliver_pixbuf (r : HostReply) (s : State) : (deliver r s).pixbuf = s.pixbuf := rfl
@[simp] theorem deliver_zidx (r : HostReply) (s : State) : (deliver r s).zidx = s.zidx := rfl
@[simp] theorem deliver_oidx (r : HostReply) (s : State) : (deliver r s).oidx = s.oidx := rfl
@[simp] theorem deliver_row (r : HostReply) (s : State) : (deliver r s).row = s.row := rfl
@[simp] theorem deliver_ft (r : HostReply) (s : State) : (deliver r s).ft = s.ft := rfl
@[simp] theorem deliver_launch (r : HostReply) (s : State) : (deliver r s).launch = s.launch := rfl
@[simp] theorem deliver_flow (r : HostReply) (s : State) : (deliver r s).flow = s.flow := rfl
@[simp] theorem deliver_hostQueue (r : HostReply) (s : State) : (deliver r s).hostQueue = s.hostQueue := rfl
@[simp] theorem deliver_replies (r : HostReply) (s : State) : (deliver r s).replies = s.replies ++ [r] := rfl

/-! ### `CPS` -/

@[simp] theorem Cps.markIhdr_ihdrSeen (c : Cps) : c.markIhdr.ihdrSeen = true := rfl
@[simp] theorem Cps.markIhdr_idatSeen (c : Cps) : c.markIhdr.idatSeen = c.idatSeen := rfl
@[simp] theorem Cps.markIhdr_inRun (c : Cps) : c.markIhdr.inRun = c.inRun := rfl
@[simp] theorem Cps.markIhdr_iendSeen (c : Cps) : c.markIhdr.iendSeen = c.iendSeen := rfl
@[simp] theorem Cps.markIdat_ihdrSeen (c : Cps) : c.markIdat.ihdrSeen = c.ihdrSeen := rfl
@[simp] theorem Cps.markIdat_idatSeen (c : Cps) : c.markIdat.idatSeen = true := rfl
@[simp] theorem Cps.markIdat_inRun (c : Cps) : c.markIdat.inRun = true := rfl
@[simp] theorem Cps.markIdat_iendSeen (c : Cps) : c.markIdat.iendSeen = c.iendSeen := rfl
@[simp] theorem Cps.endRun_ihdrSeen (c : Cps) : c.endRun.ihdrSeen = c.ihdrSeen := rfl
@[simp] theorem Cps.endRun_idatSeen (c : Cps) : c.endRun.idatSeen = c.idatSeen := rfl
@[simp] theorem Cps.endRun_inRun (c : Cps) : c.endRun.inRun = false := rfl
@[simp] theorem Cps.endRun_iendSeen (c : Cps) : c.endRun.iendSeen = c.iendSeen := rfl
@[simp] theorem Cps.markIend_ihdrSeen (c : Cps) : c.markIend.ihdrSeen = c.ihdrSeen := rfl
@[simp] theorem Cps.markIend_idatSeen (c : Cps) : c.markIend.idatSeen = c.idatSeen := rfl
@[simp] theorem Cps.markIend_inRun (c : Cps) : c.markIend.inRun = c.inRun := rfl
@[simp] theorem Cps.markIend_iendSeen (c : Cps) : c.markIend.iendSeen = true := rfl

end Sys2Proof.Machine
end

