-- ==== Sys2Proof/Laws/Ops.lean ====
section
/-! SUPPORT. What each shared operation can do, said once. -/

namespace Sys2Proof.Machine

/-! ### Sizes and formats -/

theorem withBpp_some {h : ImageHeader} {bpp : Nat} {k : Nat → Result} (hb : bppOf h.colorType = some bpp) :
    withBpp h k = k bpp := by simp [withBpp, hb]

theorem withBpp_next {h : ImageHeader} {k : Nat → Result} {t : State} (e : withBpp h k = .next t) :
    ∃ bpp, bppOf h.colorType = some bpp ∧ k bpp = .next t := by
  cases hb : bppOf h.colorType with
  | none => simp [withBpp, hb] at e
  | some bpp => exact ⟨bpp, rfl, by simpa [withBpp, hb] using e⟩

theorem bppOf_eq_some {ct : Byte} {bpp : Nat} :
    bppOf ct = some bpp ↔ (ct = 2 ∧ bpp = 3) ∨ (ct = 6 ∧ bpp = 4) := by
  unfold bppOf
  by_cases h2 : ct = 2
  · subst h2; simp [eq_comm]
  · by_cases h6 : ct = 6
    · subst h6; simp [eq_comm]
    · simp only [beq_iff_eq, h2, h6, if_false, false_and, or_self, reduceCtorEq]

theorem supported_iff {h : ImageHeader} :
    supported h = true ↔ (h.colorType = 2 ∨ h.colorType = 6) ∧ h.bitDepth = 8 := by simp [supported]

theorem bppOf_of_supported {h : ImageHeader} (hs : supported h = true) : ∃ bpp, bppOf h.colorType = some bpp := by
  rcases (supported_iff.mp hs).1 with hc | hc <;> simp [bppOf, hc]

theorem bppOf_pos {ct : Byte} {bpp : Nat} (hb : bppOf ct = some bpp) : 0 < bpp := by
  rcases bppOf_eq_some.mp hb with ⟨-, rfl⟩ | ⟨-, rfl⟩ <;> omega

/-! ### The flush and the chunk step -/

/-- Everything the engine's entry can do. -/
theorem enterEngine_next {i : Instr} {s t : State} (h : enterEngine i s = .next t) :
    (supported s.hdr = false ∧ t = raise .unsupportedFormat s) ∨
      (supported s.hdr = true ∧ ∃ bpp, bppOf s.hdr.colorType = some bpp ∧
        ((s.zbuf.length ≠ s.hdr.height.toNat * rowBytesOf s.hdr bpp ∧ t = raise .scanlineLengthMismatch s) ∨
          (s.zbuf.length = s.hdr.height.toNat * rowBytesOf s.hdr bpp ∧
            t = { s with zidx := 0, row := 0, oidx := s.pixbuf.length, flow := .flushing i }))) := by
  unfold enterEngine at h
  cases hs : supported s.hdr with
  | false => left; simpa [hs, eq_comm] using h
  | true =>
    right
    simp only [hs, Bool.not_true, Bool.false_eq_true, if_false] at h
    obtain ⟨bpp, hb, h⟩ := withBpp_next h
    refine ⟨rfl, bpp, hb, ?_⟩
    split at h
    · next hl => exact .inl ⟨hl, by simpa [eq_comm] using h⟩
    · next hl => exact .inr ⟨by simpa using hl, by simpa [eq_comm] using h⟩

/-- Everything the opening of a flush can do. -/
theorem beginFlush_next {i : Instr} {s t : State} (h : beginFlush i s = .next t) :
    t = raise .decompressionError s ∨
      ∃ z, inflate s.launch.inflate s.idatbuf = .ok z ∧ enterEngine i { s with zbuf := z } = .next t := by
  unfold beginFlush at h
  split at h
  · left; simpa [eq_comm] using h
  · left; simpa [eq_comm] using h
  · next z hz => exact .inr ⟨z, hz, h⟩

theorem chunkStep_flushing {i j : Instr} {tag : Bytes4} {c : Chunk} {body : State → Result} {s : State}
    (hf : s.flow = .flushing j) : chunkStep i tag c body s = body (endFlush s) := by
  simp [chunkStep, hf]

theorem chunkStep_runEnd {i : Instr} {tag : Bytes4} {c : Chunk} {body : State → Result} {s : State}
    (hf : s.flow = .between) (hr : s.cps.inRun = true) (ht : tag ≠ Config.tagIDAT) :
    chunkStep i tag c body s = beginFlush i (latchChunk tag c s) := by
  simp [chunkStep, hf, hr, ht]

theorem chunkStep_body {i : Instr} {tag : Bytes4} {c : Chunk} {body : State → Result} {s : State}
    (hf : s.flow = .between) (hr : s.cps.inRun = false ∨ tag = Config.tagIDAT) :
    chunkStep i tag c body s = body (latchChunk tag c s) := by
  rcases hr with hr | hr <;> simp [chunkStep, hf, hr]

theorem requireHeader_seen {body : State → Result} {s : State} (h : s.cps.ihdrSeen = true) :
    requireHeader body s = body s := by simp [requireHeader, h]

theorem requireHeader_unseen {body : State → Result} {s : State} (h : s.cps.ihdrSeen = false) :
    requireHeader body s = .next (raise .missingHeader s) := by simp [requireHeader, h]

/-! ### Byte spaces -/

theorem memRead_length {p : List Byte} {a n : Nat} (h : a + n ≤ p.length) : (memRead p a n).length = n := by
  simp [memRead]; omega

theorem memWrite_length {p v : List Byte} {a : Nat} (h : a + v.length ≤ p.length) :
    (memWrite p a v).length = p.length := by
  simp [memWrite]; omega

/-- A write lands where it is meant to, and nowhere else. -/
theorem memWrite_getElem? {p v : List Byte} {a i : Nat} (h : a + v.length ≤ p.length) :
    (memWrite p a v)[i]? = if a ≤ i ∧ i < a + v.length then v[i - a]? else p[i]? := by
  have ha : (p.take a).length = a := by simp; omega
  unfold memWrite
  by_cases h1 : i < a
  · rw [List.getElem?_append_left (by omega), List.getElem?_take, if_pos h1, if_neg (by omega)]
  · rw [List.getElem?_append_right (by omega), ha]
    by_cases h2 : i - a < v.length
    · rw [List.getElem?_append_left h2, if_pos (by omega)]
    · rw [List.getElem?_append_right (by omega), List.getElem?_drop, if_neg (by omega)]
      congr 1; omega

/-! ### The step -/

theorem step_run_noReset {s : State} (hp : s.phase = .run) (hq : s.hostQueue.head? ≠ some .reset) :
    nextAction s = runAction s := by
  unfold nextAction
  split
  · simp [hp]
  · next op rest hs =>
    have : op ≠ .reset := by intro e; simp [hs, e] at hq
    simp [this, hp]

theorem runAction_between {s : State} (hf : s.flow = .between) : runAction s = chunkAction s := by simp [runAction, hf]

theorem runAction_flushing {s : State} {i : Instr} (hf : s.flow = .flushing i) : runAction s = flushAction i s := by
  simp [runAction, hf]

end Sys2Proof.Machine
end

