-- ==== Sys2Proof/Laws/PerInstr.lean ====
section
/-! SUPPORT. Families of statements made per instruction. `EncodedSize`: how many bytes an instruction occupies in its stream
(R70, R82), one lemma per constructor. -/

namespace Sys2Proof

/-- The size of an instruction's encoding: 8 for the signature, `12 + CLEN` for a chunk, `1 + STRIDE` for a scanline; a host
operation has none. -/
def Instr.size : Instr → Option Nat
  | .sig => some 8
  | .ihdr c => some (12 + c.payload.length)
  | .idat c => some (12 + c.payload.length)
  | .iccp c => some (12 + c.payload.length)
  | .iend c => some (12 + c.payload.length)
  | .other _ c => some (12 + c.payload.length)
  | .ftNone d => some (1 + d.length)
  | .ftSub d => some (1 + d.length)
  | .ftUp d => some (1 + d.length)
  | .ftAverage d => some (1 + d.length)
  | .ftPaeth d => some (1 + d.length)
  | .ftReserved _ d => some (1 + d.length)
  | .start _ => none
  | .getHeader => none
  | .getImageData => none
  | .compareSize _ _ => none
  | .reverseImage => none

namespace Laws.EncodedSize

/-- The encoding has the size the format gives it. -/
def Statement (i : Instr) : Prop := (encode i).map List.length = i.size

theorem sig : Statement .sig := rfl
theorem ihdr (c : Chunk) : Statement (.ihdr c) := congrArg some (chunkBytes_length _ c)
theorem idat (c : Chunk) : Statement (.idat c) := congrArg some (chunkBytes_length _ c)
theorem iccp (c : Chunk) : Statement (.iccp c) := congrArg some (chunkBytes_length _ c)
theorem iend (c : Chunk) : Statement (.iend c) := congrArg some (chunkBytes_length _ c)
theorem other (tag : Bytes4) (c : Chunk) : Statement (.other tag c) := congrArg some (chunkBytes_length tag c)
theorem ftNone (d : List Byte) : Statement (.ftNone d) := congrArg some (Nat.add_comm d.length 1)
theorem ftSub (d : List Byte) : Statement (.ftSub d) := congrArg some (Nat.add_comm d.length 1)
theorem ftUp (d : List Byte) : Statement (.ftUp d) := congrArg some (Nat.add_comm d.length 1)
theorem ftAverage (d : List Byte) : Statement (.ftAverage d) := congrArg some (Nat.add_comm d.length 1)
theorem ftPaeth (d : List Byte) : Statement (.ftPaeth d) := congrArg some (Nat.add_comm d.length 1)
theorem ftReserved (ft : Byte) (d : List Byte) : Statement (.ftReserved ft d) :=
  congrArg some (Nat.add_comm d.length 1)
theorem start (p : LaunchParams) : Statement (.start p) := rfl
theorem getHeader : Statement .getHeader := rfl
theorem getImageData : Statement .getImageData := rfl
theorem compareSize (width height : Word) : Statement (.compareSize width height) := rfl
theorem reverseImage : Statement .reverseImage := rfl

end Laws.EncodedSize

end Sys2Proof
end

