-- ==== Sys2Proof/Laws/Scanline.lean ====
section
/-! SUPPORT. What a scanline does to the pixel buffer: it only appends, one byte for each filtered byte. -/

namespace Sys2Proof.Machine

@[simp] theorem appendByte_length (bpp stride : Nat) (pred : Predictor) (pix : List Byte) (f : Byte) :
    (appendByte bpp stride pred pix f).length = pix.length + 1 := by simp [appendByte, memAppend]

@[simp] theorem reconstructRow_nil (bpp stride : Nat) (pred : Predictor) (pix : List Byte) :
    reconstructRow bpp stride pred [] pix = pix := rfl

theorem reconstructRow_cons (bpp stride : Nat) (pred : Predictor) (f : Byte) (data pix : List Byte) :
    reconstructRow bpp stride pred (f :: data) pix =
      reconstructRow bpp stride pred data (appendByte bpp stride pred pix f) := rfl

theorem reconstructRow_append (bpp stride : Nat) (pred : Predictor) (d d' pix : List Byte) :
    reconstructRow bpp stride pred (d ++ d') pix =
      reconstructRow bpp stride pred d' (reconstructRow bpp stride pred d pix) := by
  simp [reconstructRow, List.foldl_append]

@[simp] theorem reconstructRow_length (bpp stride : Nat) (pred : Predictor) (data pix : List Byte) :
    (reconstructRow bpp stride pred data pix).length = pix.length + data.length := by
  induction data generalizing pix with
  | nil => simp
  | cons f data ih => rw [reconstructRow_cons, ih, appendByte_length, List.length_cons]; omega

/-- The output so far is kept. -/
theorem reconstructRow_extends (bpp stride : Nat) (pred : Predictor) (data pix : List Byte) :
    ∃ new, reconstructRow bpp stride pred data pix = pix ++ new ∧ new.length = data.length := by
  induction data generalizing pix with
  | nil => exact ⟨[], by simp⟩
  | cons f data ih =>
    obtain ⟨new, hn, hl⟩ := ih (appendByte bpp stride pred pix f)
    refine ⟨reconstructByte f (pred (leftOf bpp stride pix) (upOf stride pix) (upLeftOf bpp stride pix)) :: new, ?_,
      by simp [hl]⟩
    rw [reconstructRow_cons, hn, appendByte, memAppend, List.append_assoc]; rfl

/-- When a scanline instruction completes, and to what. -/
theorem execRow_eq {ftype : Byte} {pred : Predictor} {data : List Byte} {s : State} {bpp : Nat}
    (hb : bppOf s.hdr.colorType = some bpp) :
    execRow ftype pred data s = .next { s with
        ft := ftype
        zidx := s.zidx + (1 + data.length)
        pixbuf := reconstructRow bpp (strideOf s.hdr bpp) pred data s.pixbuf
        oidx := s.pixbuf.length + data.length
        row := s.row + 1 } := withBpp_some hb

/-- Everything a scanline instruction can do when it gives a next state. -/
theorem execRow_next {ftype : Byte} {pred : Predictor} {data : List Byte} {s t : State}
    (h : execRow ftype pred data s = .next t) :
    ∃ bpp, bppOf s.hdr.colorType = some bpp ∧
      t = { s with
        ft := ftype
        zidx := s.zidx + (1 + data.length)
        pixbuf := reconstructRow bpp (strideOf s.hdr bpp) pred data s.pixbuf
        oidx := s.pixbuf.length + data.length
        row := s.row + 1 } := by
  obtain ⟨bpp, hb, h⟩ := withBpp_next h
  exact ⟨bpp, hb, by simpa [eq_comm] using h⟩

end Sys2Proof.Machine
end

