-- ==== Sys2Proof/Tests/Slice0.lean ====
section
/-! SUPPORT. Tests. Expected values are those of `spec/95_test_vectors.md` (its vector named in each docstring) or are written out
from the encodings of `spec/30_encoding.md`. After them, for each statement of `Obligations.lean` with hypotheses, a state and
operands that meet them. -/

namespace Sys2Proof.Tests

open Sys2Proof.Machine Sys2Proof.Safety

/-! ### Small states -/

/-- A header of `w` by `h` pixels, bit depth 8. -/
def header (w h : Word) (ct : Byte) : ImageHeader := ⟨w, h, 8, ct, 0, 0, 0⟩

/-- The bytes of a chunk with the trailer `01 02 03 04`. -/
def chunk (tag : Bytes4) (p : List Byte) : List Byte := chunkBytes tag ⟨p, ⟨1, 2, 3, 4⟩⟩

/-- A launch at `POS = 8`, before any chunk; `rest` are the bytes after the signature. -/
def fresh (rest : List Byte) : State :=
  { State.reset with phase := .run, pos := 8, launch := ⟨true, Config.signature ++ rest, []⟩ }

/-- The same with the header `h` accepted. -/
def accepted (h : ImageHeader) (rest : List Byte) : State :=
  { fresh rest with cps := ⟨true, false, false, false⟩, hdr := h }

/-- The same inside a run of `IDAT` chunks whose bytes are `[1]`, for which `Inflate` answers `r`. -/
def running (h : ImageHeader) (r : InflateResult) : State :=
  { accepted h [] with cps := ⟨true, true, true, false⟩, idatbuf := [1], launch := ⟨true, Config.signature, [([1], r)]⟩ }

/-- Inside the flush that an empty `IEND` opened: `z` is decompressed, `row` scanlines are done, `pix` is appended. -/
def flushing (h : ImageHeader) (bpp row : Nat) (z pix : List Byte) : State :=
  { accepted h (chunk Config.tagIEND []) with
    pos := 20, cps := ⟨true, true, true, false⟩, idatbuf := [1], zbuf := z, pixbuf := pix, row := row
    zidx := row * rowBytesOf h bpp, oidx := pix.length
    flow := .flushing (.iend ⟨[], ⟨1, 2, 3, 4⟩⟩) }

/-- A finished launch. -/
def finished (h : ImageHeader) (pix : List Byte) : State :=
  { accepted h [] with phase := .done, endCause := .eof, pixbuf := pix }

/-- A finished launch without a header. -/
def headerless : State := { fresh [] with phase := .done, endCause := .eof }

/-- A state with the host's operation `op` pending. -/
def asking (op : HostOp) (s : State) : State := { s with hostQueue := [op] }

/-- What is read of an outcome: the phase, the error, `PIXBUF`. -/
def seen : Result → Option (Phase × ErrKind × List Byte)
  | .next s => some (s.phase, s.err, s.pixbuf)
  | .fault _ => none
  | .refused _ => none

/-- The exception an outcome took: all that a `FAULT` state defines (R31). -/
def raised : Result → Option ErrKind
  | .next s => if s.phase = .fault then some s.err else none
  | .fault _ => none
  | .refused _ => none

/-- The last copy the host received. -/
def lastReply : Result → Option HostReply
  | .next s => s.replies.getLast?
  | .fault _ => none
  | .refused _ => none

def crc : Bytes4 := ⟨1, 2, 3, 4⟩

/-! ### Well-formedness -/

theorem test_wf_accepts : (Instr.other ⟨0x74, 0x45, 0x58, 0x74⟩ ⟨[1], crc⟩).wf = true := by decide
theorem test_wf_refuses_other_IDAT : (Instr.other Config.tagIDAT ⟨[], crc⟩).wf = false := by decide
theorem test_wf_refuses_other_iCCP : (Instr.other Config.tagICCP ⟨[], crc⟩).wf = false := by decide
theorem test_wf_refuses_other_IEND : (Instr.other Config.tagIEND ⟨[], crc⟩).wf = false := by decide
theorem test_wf_refuses_reserved_4 : (Instr.ftReserved 4 []).wf = false := by decide
theorem test_wf_refuses_long_payload : Chunk.wf ⟨List.replicate (2 ^ 32) 0, crc⟩ = false := by
  simp only [Chunk.wf, List.length_replicate]; decide
theorem test_fits_refuses_second_ihdr : (Instr.ihdr ⟨[], crc⟩).fits (.chunk true) = false := by decide
theorem test_fits_refuses_other_first_ihdr : (Instr.other Config.tagIHDR ⟨[], crc⟩).fits (.chunk false) = false := by decide
theorem test_fits_refuses_short_scanline : (Instr.ftSub [1]).fits (.scanline 3) = false := by decide
theorem test_fits_refuses_host_operation : Instr.getHeader.fits .sig = false := by decide

/-! ### Decoding (R71 to R77; vectors 2.1, 2.2) -/

theorem test_decode_sig :
    decode .sig [0x89, 0x50, 0x4E, 0x47, 0x0D, 0x0A, 0x1A, 0x0A, 5] = .ok (.sig, [5]) := by decide
theorem test_decode_ihdr :
    decode (.chunk false) [0, 0, 0, 1, 0x49, 0x48, 0x44, 0x52, 7, 1, 2, 3, 4] = .ok (.ihdr ⟨[7], crc⟩, []) := by decide
theorem test_decode_second_ihdr :
    decode (.chunk true) [0, 0, 0, 1, 0x49, 0x48, 0x44, 0x52, 7, 1, 2, 3, 4] =
      .ok (.other ⟨0x49, 0x48, 0x44, 0x52⟩ ⟨[7], crc⟩, []) := by decide
theorem test_decode_idat :
    decode (.chunk true) [0, 0, 0, 2, 0x49, 0x44, 0x41, 0x54, 7, 8, 1, 2, 3, 4, 9] =
      .ok (.idat ⟨[7, 8], crc⟩, [9]) := by decide
theorem test_decode_iccp :
    decode (.chunk true) [0, 0, 0, 0, 0x69, 0x43, 0x43, 0x50, 1, 2, 3, 4] = .ok (.iccp ⟨[], crc⟩, []) := by decide
theorem test_decode_iend :
    decode (.chunk true) [0, 0, 0, 0, 0x49, 0x45, 0x4E, 0x44, 1, 2, 3, 4] = .ok (.iend ⟨[], crc⟩, []) := by decide
theorem test_decode_other_case_differs :
    decode (.chunk true) [0, 0, 0, 0, 0x49, 0x43, 0x43, 0x50, 1, 2, 3, 4] =
      .ok (.other ⟨0x49, 0x43, 0x43, 0x50⟩ ⟨[], crc⟩, []) := by decide
theorem test_decode_none : decode (.scanline 2) [0x00, 5, 6] = .ok (.ftNone [5, 6], []) := by decide
theorem test_decode_sub : decode (.scanline 2) [0x01, 5, 6] = .ok (.ftSub [5, 6], []) := by decide
theorem test_decode_up : decode (.scanline 2) [0x02, 5, 6] = .ok (.ftUp [5, 6], []) := by decide
theorem test_decode_average : decode (.scanline 2) [0x03, 5, 6] = .ok (.ftAverage [5, 6], []) := by decide
theorem test_decode_paeth : decode (.scanline 2) [0x04, 5, 6] = .ok (.ftPaeth [5, 6], []) := by decide
theorem test_decode_reserved_5 : decode (.scanline 2) [0x05, 5, 6] = .ok (.ftReserved 5 [5, 6], []) := by decide
theorem test_decode_reserved_255 : decode (.scanline 0) [0xFF] = .ok (.ftReserved 255 [], []) := by decide

theorem test_reject_bad_signature :
    decode .sig [0x88, 0x50, 0x4E, 0x47, 0x0D, 0x0A, 0x1A, 0x0A] = .error .badSignature := by decide
theorem test_reject_short_signature : decode .sig [0x89, 0x50] = .error .shortSignature := by decide
theorem test_reject_seven_bytes :
    decode (.chunk true) [0, 0, 0, 0, 0x49, 0x45, 0x4E] = .error .shortChunkHead := by decide
theorem test_reject_eleven_bytes :
    decode (.chunk true) [0, 0, 0, 0, 0x49, 0x45, 0x4E, 0x44, 1, 2, 3] = .error .shortChunkBody := by decide
theorem test_reject_length_is_unsigned :
    decode (.chunk true) [0xFF, 0xFF, 0xFF, 0xFF, 0x49, 0x45, 0x4E, 0x44, 1, 2, 3, 4] = .error .shortChunkBody := by decide
theorem test_reject_empty_scanline : decode (.scanline 2) [] = .error .emptyScanline := by decide
theorem test_reject_short_scanline : decode (.scanline 2) [0, 1] = .error .shortScanline := by decide

theorem test_be32_sign_bit : (be32 0x80 0 0 0).toNat = 2147483648 := by decide
theorem test_be32_order : (be32 0 0 1 0).toNat = 256 := by decide

theorem test_table_sig : decodeTableWord 64 0x89504E470D0A1A0A = some .sig := by decide
theorem test_table_iccp : decodeTableWord 32 0x69434350 = some (.iccp ⟨[], ⟨0, 0, 0, 0⟩⟩) := by decide
theorem test_table_paeth : decodeTableWord 8 4 = some (.ftPaeth [0, 0, 0]) := by decide
theorem test_fetch_word_idat :
    step (State.reset.withFetchWord 32 0x49444154) =
      exec (.idat ⟨[], ⟨0, 0, 0, 0⟩⟩) (State.reset.withFetchWord 32 0x49444154) := by rfl
theorem test_fetch_word_sub : seen (step (State.reset.withFetchWord 8 1)) = some (.run, .noError, [0, 0, 0]) := by decide

/-! ### The container family -/

/-- Program E1. -/
theorem test_sig_wrong_byte :
    raised (exec .sig { fresh [] with launch := ⟨true, 0x88 :: Config.signature.tail, []⟩ }) =
      some .invalidSignature := by decide
/-- Vector 2.3, row 2. -/
theorem test_ihdr_fields :
    exec (.ihdr ⟨[0, 0, 1, 0, 0, 0, 0, 3, 0x10, 6, 1, 2, 1], crc⟩) (fresh []) = .next
      { fresh [] with
        clen := 13, ctype := Config.tagIHDR, pos := 33, cps := ⟨true, false, false, false⟩
        hdr := ⟨256, 3, 16, 6, 1, 2, 1⟩ } := by rfl
/-- Vector 2.3, row 6: the length before the dimensions. -/
theorem test_ihdr_length_first :
    raised (exec (.ihdr ⟨[0, 0, 0, 0, 0, 0, 0, 0, 8, 2, 0, 0], crc⟩) (fresh [])) = some .badHeaderLength := by decide
/-- R113. -/
theorem test_idat_appends :
    exec (.idat ⟨[7, 8], crc⟩) (running (header 1 1 2) .dataError) = .next
      { running (header 1 1 2) .dataError with
        clen := 2, ctype := Config.tagIDAT, pos := 22, idatbuf := [1, 7, 8] } := by rfl
/-- Program E5c: the flush comes before the ordering check. -/
theorem test_iccp_after_bad_run :
    raised (exec (.iccp ⟨[1, 0, 0], crc⟩) (running (header 1 1 2) .dataError)) = some .decompressionError := by decide
/-- Vector 2.4, row 9: the format before the length. -/
theorem test_iend_format_first :
    raised (exec (.iend ⟨[], crc⟩) (running (header 1 1 3) (.ok []))) = some .unsupportedFormat := by decide
/-- Vector 2.4, row 11. -/
theorem test_other_short_data :
    raised (exec (.other ⟨1, 2, 3, 4⟩ ⟨[], crc⟩) (running (header 1 1 2) (.ok [0, 10, 20]))) = some .scanlineLengthMismatch := by decide
/-- Vector 2.2: an `IEND` before a header. -/
theorem test_iend_missing_header :
    raised (exec (.iend ⟨[], crc⟩) (fresh [])) = some .missingHeader := by decide

/-! ### The scanline family: the rows of program P3 (2 by 5, TrueColor) -/

def p3 (pix : List Byte) : State := flushing (header 2 5 2) 3 0 [] pix

theorem test_none_row : seen (exec (.ftNone [0, 10, 255, 128, 7, 99]) (p3 [])) =
    some (.run, .noError, [0, 10, 255, 128, 7, 99]) := by decide
theorem test_paeth_first_row : seen (exec (.ftPaeth [0x64, 0x96, 0xC8, 0x64, 0x64, 0x64]) (p3 [])) =
    some (.run, .noError, [100, 150, 200, 200, 250, 44]) := by decide
theorem test_sub_row : seen (exec (.ftSub [0x0A, 0xFA, 0x05, 0xFB, 0x0A, 0x3C]) (p3 [100, 150, 200, 200, 250, 44])) =
    some (.run, .noError, [100, 150, 200, 200, 250, 44, 10, 250, 5, 5, 4, 65]) := by decide
theorem test_up_row : seen (exec (.ftUp [0xC8, 0x01, 0xFF, 0x07, 0x64, 0x03]) (p3 [10, 250, 5, 5, 4, 65])) =
    some (.run, .noError, [10, 250, 5, 5, 4, 65, 210, 251, 4, 12, 104, 68]) := by decide
theorem test_average_row : seen (exec (.ftAverage [0x32, 0x3C, 0x46, 0xC8, 0xC9, 0xCA]) (p3 [210, 251, 4, 12, 104, 68])) =
    some (.run, .noError, [210, 251, 4, 12, 104, 68, 155, 185, 72, 27, 89, 16]) := by decide
theorem test_paeth_later_row : seen (exec (.ftPaeth [1, 2, 3, 0xFA, 0x80, 7]) (p3 [155, 185, 72, 27, 89, 16])) =
    some (.run, .noError, [155, 185, 72, 27, 89, 16, 156, 187, 75, 21, 217, 23]) := by decide
theorem test_reserved_row : raised (exec (.ftReserved 5 [10, 20, 30]) (p3 [])) = some .badFilterType := by decide
/-- Section 2.5, the four tie rows. -/
theorem test_paeth_ties : (calcPaeth 12 12 0, calcPaeth 3 6 5, calcPaeth 6 3 5, calcPaeth 0 4 2) = (12, 3, 3, 2) := by decide
/-- Section 2.6: the wide sum of `AVERAGE`, and S5. -/
theorem test_wide_sum : (reconstructByte 1 (predAverage 255 255 0), reconstructByte 128 (predAverage 128 128 0)) = (0, 0) := by
  decide

/-! ### The host family (vectors 2.8) -/

theorem test_start_io_error :
    raised (step (asking (.start ⟨false, [1], []⟩) State.reset)) = some .ioError := by decide
theorem test_start_refused :
    exec (.start ⟨true, [], []⟩) headerless = .refused .startOutsideIdle := by rfl
theorem test_getHeader :
    lastReply (exec .getHeader (finished (header 2 2 2) [])) = some (.header ⟨2, 2, 8, 2, 0, 0, 0⟩) := by decide
theorem test_getHeader_refused : exec .getHeader headerless = .refused .headerNotParsed := by rfl
theorem test_getImageData_empty : lastReply (exec .getImageData headerless) = some (.imageData []) := by decide
theorem test_compareSize_success :
    lastReply (exec (.compareSize 2 2) (finished (header 2 2 2) [])) = some (.size .success) := by decide
theorem test_compareSize_fail :
    lastReply (exec (.compareSize 2 3) (finished (header 2 2 2) [])) = some (.size .fail) := by decide
/-- Vector H4. -/
theorem test_reverseImage :
    seen (exec .reverseImage (finished (header 2 3 6)
      [1, 2, 3, 4, 5, 6, 7, 8, 9, 10, 11, 12, 13, 14, 15, 16, 17, 18, 19, 20, 21, 22, 23, 24])) =
      some (.done, .noError,
        [17, 18, 19, 20, 21, 22, 23, 24, 9, 10, 11, 12, 13, 14, 15, 16, 1, 2, 3, 4, 5, 6, 7, 8]) := by decide
/-- Vector H6. -/
theorem test_reverseImage_refused :
    exec .reverseImage (finished (header 1 1 2) [10, 20, 30]) = .refused .reverseUndefined := by rfl

/-! ### Witnesses: the hypotheses of each statement are met together -/

/-- At a boundary, an `IDAT` next. -/
def atIdat : State := accepted (header 1 1 2) (chunk Config.tagIDAT [1])

/-- Inside a flush, its one scanline next. -/
def atRow : State := flushing (header 1 1 2) 3 0 [0, 10, 20, 30] []

/-- Inside a flush, its scanline done. -/
def atFlushEnd : State := flushing (header 1 1 2) 3 1 [0, 10, 20, 30] [10, 20, 30]

theorem boundary_empty (h : ImageHeader) (rest : List Byte) : BoundaryInv (accepted h rest) :=
  ⟨rfl, fun h => absurd rfl h, fun _ _ _ _ => dvd_zero _, fun _ _ => rfl⟩

theorem atIdat_inv : Inv atIdat := by
  refine ⟨by decide, fun _ => ?_⟩
  exact
    { in_run_idat := by decide
      idat_ihdr := by decide
      iend_ihdr := by decide
      iend_end := by decide
      done_end := by decide
      hdr_accepted := by decide
      hdr_absent := by decide
      pos_le := by decide
      pos_signature := by decide
      pos_zero := by decide
      pos_done := by decide
      idle_start := nofun
      boundary := fun _ => boundary_empty _ _
      flush := nofun }

theorem atRow_inv : Inv atRow := by
  refine ⟨by decide, fun _ => ?_⟩
  exact
    { in_run_idat := by decide
      idat_ihdr := by decide
      iend_ihdr := by decide
      iend_end := by decide
      done_end := by decide
      hdr_accepted := by decide
      hdr_absent := by decide
      pos_le := by decide
      pos_signature := by decide
      pos_zero := by decide
      pos_done := by decide
      idle_start := nofun
      boundary := nofun
      flush := fun pending h => by
        have h : Flow.flushing (.iend ⟨[], ⟨1, 2, 3, 4⟩⟩) = .flushing pending := h
        cases h
        exact ⟨rfl, by decide, 3, 0, rfl, rfl, rfl, rfl, by decide, by decide, rfl, rfl, by decide⟩ }

theorem noReset_of_empty {s : State} (h : s.hostQueue = []) : NoReset s := by simp [NoReset, h]

theorem witness_ResetForgetsEverything : (asking .reset atIdat).hostQueue = [.reset] := rfl
theorem witness_StepKeepsInvariant : Inv atRow ∧ ∃ t, step atRow = .next t := ⟨atRow_inv, _, rfl⟩
theorem witness_InvariantRunsNeverFault : Inv atIdat := atIdat_inv
/-- A header, `ZIDX` and `FT` that nothing has written may hold anything. -/
theorem witness_UnwrittenRegistersAreNeverRead : Inv atIdat ∧
    erase atIdat = erase { atIdat with zidx := 7, row := 9, ft := 3, clen := 5 } ∧
    erase (fresh []) = erase { fresh [] with hdr := header 1 1 2 } := ⟨atIdat_inv, rfl, rfl⟩
theorem witness_LaunchTerminates : Inv atRow ∧ atRow.phase = .run ∧ NoReset atRow :=
  ⟨atRow_inv, rfl, noReset_of_empty rfl⟩
/-- Both cases of the conclusion: the chunk step completes at `atIdat`; a state in a run whose data do not inflate raises. -/
theorem witness_SubStepsMakeOneChunkStep : Inv atIdat ∧ atIdat.phase = .run ∧ atIdat.flow = .between ∧ atIdat.pos ≠ 0 ∧
    NoReset atIdat ∧ (∃ t, specChunkStep atIdat = .ok t) :=
  ⟨atIdat_inv, rfl, rfl, by decide, noReset_of_empty rfl, _, rfl⟩
theorem witness_DoneAndFaultAreTerminal :
    (∃ t, headerless.phase = .done ∧ NoReset (asking .readEnd headerless) ∧ step (asking .readEnd headerless) = .next t) ∧
      (raise .badFilterType atIdat).phase = .fault ∧ NoReset (asking .readErr (raise .badFilterType atIdat)) ∧
      ∃ t, step (asking .readErr (raise .badFilterType atIdat)) = .next t :=
  ⟨⟨_, rfl, by simp [NoReset, asking], rfl⟩, rfl, by simp [NoReset, asking], _, rfl⟩
theorem witness_HeaderIsImmutable :
    atIdat.cps.ihdrSeen = true ∧ NoReset atIdat ∧ ∃ t, step atIdat = .next t ∧ t.phase ≠ .fault :=
  ⟨rfl, noReset_of_empty rfl, _, rfl, by decide⟩
theorem witness_PositionOnlyIncreases :
    Inv atIdat ∧ atIdat.phase = .run ∧ NoReset atIdat ∧ ∃ t, step atIdat = .next t ∧ t.phase ≠ .fault :=
  ⟨atIdat_inv, rfl, noReset_of_empty rfl, _, rfl, by decide⟩
theorem witness_PixelsAreOnlyAppended :
    Inv atRow ∧ atRow.phase = .run ∧ NoReset atRow ∧ ∃ t, step atRow = .next t ∧ t.phase ≠ .fault ∧ t.pixbuf = [10, 20, 30] :=
  ⟨atRow_inv, rfl, noReset_of_empty rfl, _, rfl, by decide, by decide⟩
theorem witness_MethodBytesNeverMatter : atRow.phase = .run ∧ NoReset atRow ∧ atRow.cps.ihdrSeen = true :=
  ⟨rfl, noReset_of_empty rfl, rfl⟩

theorem witness_DecodeOfEncode : let i := Instr.other ⟨0x74, 0x45, 0x58, 0x74⟩ ⟨[7], crc⟩
    i.wf = true ∧ i.fits (.chunk false) = true ∧
      encode i = some [0, 0, 0, 1, 0x74, 0x45, 0x58, 0x74, 7, 1, 2, 3, 4] := by decide
theorem witness_EncodeOfDecode : ∃ i, decode (.scanline 1) [5, 6, 7] = .ok (i, [7]) := ⟨.ftReserved 5 [6], by decide⟩
/-- A length that needs two bytes. -/
theorem witness_ChunkClassByTagAndHeaderSeen :
    (List.replicate 256 (0 : Byte)).length =
      2 ^ 24 * (0 : Byte).toNat + 2 ^ 16 * (0 : Byte).toNat + 2 ^ 8 * (1 : Byte).toNat + (0 : Byte).toNat := by
  rw [List.length_replicate]; decide

theorem witness_StepRunsDecodedChunk : atIdat.phase = .run ∧ NoReset atIdat ∧ atIdat.flow = .between ∧ atIdat.pos ≠ 0 ∧
    atIdat.pos < atIdat.launch.input.length ∧
    decode (.chunk atIdat.cps.ihdrSeen) (atIdat.launch.input.drop atIdat.pos) = .ok (.idat ⟨[1], crc⟩, []) :=
  ⟨rfl, noReset_of_empty rfl, rfl, by decide, by decide, by decide⟩
theorem witness_StepRunsDecodedScanline : atRow.phase = .run ∧ NoReset atRow ∧ (∃ j, atRow.flow = .flushing j) ∧
    atRow.row < atRow.hdr.height.toNat ∧ bppOf atRow.hdr.colorType = some 3 ∧
    decode (.scanline (atRow.hdr.width.toNat * 3)) (atRow.zbuf.drop atRow.zidx) = .ok (.ftNone [10, 20, 30], []) :=
  ⟨rfl, noReset_of_empty rfl, ⟨_, rfl⟩, by decide, by decide, by decide⟩
theorem witness_StepResumesFlushingChunk : atFlushEnd.phase = .run ∧ NoReset atFlushEnd ∧
    (∃ i, atFlushEnd.flow = .flushing i) ∧ atFlushEnd.row = atFlushEnd.hdr.height.toNat :=
  ⟨rfl, noReset_of_empty rfl, ⟨_, rfl⟩, rfl⟩
theorem witness_StepRunsSignatureFirst : ∃ s : State, s.phase = .run ∧ NoReset s ∧ s.flow = .between ∧ s.pos = 0 :=
  ⟨{ fresh [] with pos := 0 }, rfl, noReset_of_empty rfl, rfl, rfl⟩
/-- Each of the five clauses. -/
theorem witness_StepRunsHostOperation (p : LaunchParams) (w h : Word) : State.reset.phase ≠ .run ∧
    (asking (.start p) State.reset).hostQueue = [.start p] ∧ (asking .getHeader headerless).hostQueue = [.getHeader] ∧
    (asking .getImageData headerless).hostQueue = [.getImageData] ∧
    (asking (.compareSize w h) headerless).hostQueue = [.compareSize w h] ∧
    (asking .reverseImage headerless).hostQueue = [.reverseImage] :=
  ⟨by decide, rfl, rfl, rfl, rfl, rfl⟩
/-- The boundary of both clauses: 7 bytes left, 11 bytes left with length 0, and 12. -/
theorem witness_TruncatedChunkExactlyWhenShort :
    raised (step (fresh [0, 0, 0, 0, 0x49, 0x45, 0x4E])) = some .truncatedChunk ∧
    raised (step (fresh [0, 0, 0, 0, 0x49, 0x45, 0x4E, 0x44, 1, 2, 3])) = some .truncatedChunk ∧
    raised (step (accepted (header 1 1 2) [0, 0, 0, 0, 0x49, 0x45, 0x4E, 0x44, 1, 2, 3, 4])) = none ∧
    (fresh [0, 0, 0, 0, 0x49, 0x45, 0x4E]).phase = .run ∧ NoReset (fresh [0, 0, 0, 0, 0x49, 0x45, 0x4E]) :=
  ⟨by decide, by decide, by decide, rfl, noReset_of_empty rfl⟩
theorem witness_EndOfStreamTerminatesWithoutFlush : let s := running (header 1 1 2) .dataError
    s.phase = .run ∧ NoReset s ∧ s.flow = .between ∧ s.pos ≠ 0 ∧ s.pos = s.launch.input.length :=
  ⟨rfl, noReset_of_empty rfl, rfl, by decide, rfl⟩

/-- Both clauses: the right signature; one byte short. -/
theorem witness_SignatureCheck :
    (fresh []).launch.input.take 8 = [0x89, 0x50, 0x4E, 0x47, 0x0D, 0x0A, 0x1A, 0x0A] ∧
    ({ fresh [] with launch := ⟨true, Config.signature.take 7, []⟩ } : State).launch.input.length < 8 := by decide
/-- Both clauses: dimensions 1 by 1 and 1 by 0. -/
theorem witness_FirstIhdrStoresHeader :
    (fresh []).flow = .between ∧ (fresh []).cps.ihdrSeen = false ∧ (fresh []).cps.inRun = false ∧
    seen (exec (.ihdr ⟨[0, 0, 0, 1, 0, 0, 0, 1, 8, 2, 0, 0, 0], crc⟩) (fresh [])) = some (.run, .noError, []) ∧
    raised (exec (.ihdr ⟨[0, 0, 0, 1, 0, 0, 0, 0, 8, 2, 0, 0, 0], crc⟩) (fresh [])) = some .invalidDimensions := by decide
theorem witness_FirstIhdrNeedsThirteenBytes : (⟨List.replicate 14 1, crc⟩ : Chunk).wf = true ∧ (fresh []).flow = .between ∧
    (fresh []).cps.ihdrSeen = false ∧ (fresh []).cps.inRun = false ∧ (List.replicate 14 (1 : Byte)).length ≠ 13 := by decide
theorem witness_IdatAppendsItsPayload : atIdat.flow = .between ∧ atIdat.cps.ihdrSeen = true := by decide
/-- Both clauses of `IccpMustPrecedeImageData`; the hypotheses of `OtherChunkIsDiscarded` and of `IendTerminates` too. -/
theorem witness_IccpMustPrecedeImageData : atIdat.flow = .between ∧ atIdat.cps.ihdrSeen = true ∧ atIdat.cps.inRun = false ∧
    atIdat.cps.idatSeen = false ∧
    ({ atIdat with cps := ⟨true, true, false, false⟩ } : State).cps.idatSeen = true := by decide
theorem witness_OtherChunkIsDiscarded :
    atIdat.flow = .between ∧ atIdat.cps.ihdrSeen = true ∧ atIdat.cps.inRun = false := by decide
theorem witness_IendTerminates :
    atIdat.flow = .between ∧ atIdat.cps.ihdrSeen = true ∧ atIdat.cps.inRun = false := by decide
theorem witness_MissingHeaderBeforeIhdr :
    (fresh []).flow = .between ∧ (fresh []).cps.ihdrSeen = false ∧ (fresh []).cps.inRun = false := by decide
/-- Each clause of `RunEndOpensFlush`, with the answer of `Inflate` pinned. -/
theorem witness_RunEndOpensFlush (r : InflateResult) :
    (running (header 1 1 2) r).flow = .between ∧ (running (header 1 1 2) r).cps.inRun = true ∧
    inflate (running (header 1 1 2) r).launch.inflate (running (header 1 1 2) r).idatbuf = r := ⟨rfl, rfl, rfl⟩
/-- The lengths at which its last two clauses meet. -/
theorem witness_RunEndOpensFlush_lengths :
    raised (exec (.iend ⟨[], crc⟩) (running (header 1 1 2) (.ok [0, 1, 2]))) = some .scanlineLengthMismatch ∧
    seen (exec (.iend ⟨[], crc⟩) (running (header 1 1 2) (.ok [0, 1, 2, 3]))) = some (.run, .noError, []) ∧
    raised (exec (.iend ⟨[], crc⟩) (running (header 1 1 2) (.ok [0, 1, 2, 3, 4]))) = some .scanlineLengthMismatch ∧
    raised (exec (.iend ⟨[], crc⟩) (running (header 1 1 2) .memoryError)) = some .decompressionError ∧
    raised (exec (.iend ⟨[], crc⟩) (running { header 1 1 2 with bitDepth := 16 } (.ok [0, 1, 2, 3]))) =
      some .unsupportedFormat := by decide
theorem witness_FlushEndRunsTheChunk : (∃ j, atFlushEnd.flow = .flushing j) ∧ atFlushEnd.cps.ihdrSeen = true ∧
    atFlushEnd.cps.idatSeen = true ∧ ({ atFlushEnd with cps := ⟨true, false, true, false⟩ } : State).cps.idatSeen = false :=
  ⟨⟨_, rfl⟩, rfl, rfl, rfl⟩
/-- Each premise, and both outcomes of opening a flush. -/
theorem witness_TrailerTakesNoPart : atIdat.cps.inRun = false ∧ atFlushEnd.flow ≠ .between ∧
    (∀ r, (running (header 1 1 2) r).cps.inRun = true ∧ (running (header 1 1 2) r).flow = .between) ∧
    (⟨1, 2, 3, 4⟩ : Bytes4) ≠ Config.tagIDAT ∧
    raised (exec (.iccp ⟨[], crc⟩) (running (header 1 1 2) .dataError)) = some .decompressionError ∧
    seen (exec (.iccp ⟨[], crc⟩) (running (header 1 1 2) (.ok [0, 1, 2, 3]))) = some (.run, .noError, []) :=
  ⟨rfl, by decide, fun _ => ⟨rfl, rfl⟩, by decide, by decide, by decide⟩

/-! Both colour types of each scanline statement. -/

theorem witness_NoneRowIsCopied : atRow.hdr.width ≠ 0 ∧ atRow.hdr.colorType = 2 ∧
    (flushing (header 1 1 6) 4 0 [] []).hdr.width ≠ 0 ∧ (flushing (header 1 1 6) 4 0 [] []).hdr.colorType = 6 := by decide
theorem witness_SubRowAddsLeft : atRow.hdr.width ≠ 0 ∧ atRow.hdr.colorType = 2 ∧
    (flushing (header 1 1 6) 4 0 [] []).hdr.width ≠ 0 ∧ (flushing (header 1 1 6) 4 0 [] []).hdr.colorType = 6 := by decide
theorem witness_UpRowAddsUp : atRow.hdr.width ≠ 0 ∧ atRow.hdr.colorType = 2 ∧
    (flushing (header 1 1 6) 4 0 [] []).hdr.width ≠ 0 ∧ (flushing (header 1 1 6) 4 0 [] []).hdr.colorType = 6 := by decide
theorem witness_AverageRowAddsWideMean : atRow.hdr.width ≠ 0 ∧ atRow.hdr.colorType = 2 ∧
    (flushing (header 1 1 6) 4 0 [] []).hdr.width ≠ 0 ∧ (flushing (header 1 1 6) 4 0 [] []).hdr.colorType = 6 := by decide
theorem witness_PaethRowAddsNearest : atRow.hdr.width ≠ 0 ∧ atRow.hdr.colorType = 2 ∧
    (flushing (header 1 1 6) 4 0 [] []).hdr.width ≠ 0 ∧ (flushing (header 1 1 6) 4 0 [] []).hdr.colorType = 6 := by decide
theorem witness_ReservedFilterTypeFaults : 4 < (5 : Byte).toNat := by decide
/-- The three branches of `CalcPaethPicksNearest`, at the distances where they meet. -/
theorem witness_CalcPaethPicksNearest :
    (calcPaeth 12 12 0 = 12 ∧ |(12 + 12 - 0 : Int) - 12| ≤ |(12 + 12 - 0 : Int) - 12|) ∧
    (calcPaeth 6 3 5 = 3 ∧ |(6 + 3 - 5 : Int) - 3| ≤ |(6 + 3 - 5 : Int) - 5|) ∧
    (calcPaeth 0 4 2 = 2 ∧ ¬ |(0 + 4 - 2 : Int) - 4| ≤ |(0 + 4 - 2 : Int) - 2|) := by decide

/-- The three clauses. -/
theorem witness_StartOpensTheLaunch : State.reset.phase = .idle ∧ headerless.phase ≠ .idle := by decide
theorem witness_GetHeaderDeliversCopy : headerless.phase = .done ∧ headerless.cps.ihdrSeen = false ∧
    (finished (header 2 2 2) []).phase = .done ∧ (finished (header 2 2 2) []).cps.ihdrSeen = true := by decide
theorem witness_GetImageDataDeliversCopy : headerless.phase = .done := by decide
theorem witness_CompareSizeMatchesBoth : (finished (header 2 2 2) []).phase = .done ∧
    (finished (header 2 2 2) []).cps.ihdrSeen = true ∧
    headerless.cps.ihdrSeen = false := by decide
/-- An odd height, whose middle row stays. -/
theorem witness_ReverseImageFlipsRows : let s := finished (header 1 3 6) (List.replicate 12 7)
    s.phase = .done ∧ s.cps.ihdrSeen = true ∧ s.hdr.colorType = 6 ∧ s.hdr.bitDepth = 8 ∧
    s.pixbuf.length = s.hdr.width.toNat * s.hdr.height.toNat * 4 := by decide
theorem witness_ReverseImageTwiceRestores :
    ∃ t, exec .reverseImage (finished (header 1 2 6) [1, 2, 3, 4, 5, 6, 7, 8]) = .next t := ⟨_, rfl⟩
theorem witness_ReverseImageRefusedOtherwise : (finished (header 1 1 2) [10, 20, 30]).phase = .done ∧
    (finished (header 1 1 2) [10, 20, 30]).hdr.colorType = 2 ∧
    (finished (header 1 1 6) [1, 2, 3]).complete = false := by decide
theorem witness_ResultsOnlyInDone : State.reset.phase ≠ .done := by decide
/-- Each clause. -/
theorem witness_StatusReadsByPhase : headerless.phase ≠ .run ∧ headerless.phase ≠ .fault ∧
    (asking .readEnd headerless).hostQueue = [.readEnd] ∧ (asking .readCps headerless).hostQueue = [.readCps] ∧
    (raise .ioError State.reset).phase = .fault ∧ (asking .readPhase headerless).hostQueue = [.readPhase] ∧
    (asking .readErr (raise .ioError State.reset)).hostQueue = [.readErr] := by decide
theorem witness_ErrorsEndTheLaunch : Inv atIdat ∧ atIdat.phase = .run ∧ NoReset atIdat ∧ ∃ t, step atIdat = .next t :=
  ⟨atIdat_inv, rfl, noReset_of_empty rfl, _, rfl⟩

end Sys2Proof.Tests
end

section
/-! PROOF SUPPORT. What a step can do, said once: the instruction a launch fetches, what each family of instructions makes
of the state, what a host transaction makes of it. -/

namespace Sys2Proof.Proofs

open Sys2Proof Sys2Proof.Machine Sys2Proof.Safety

/-! ### What is fetched -/

/-- `i` is a chunk instruction with that tag and those operands (R71, R73). -/
inductive IsChunk : Instr → Bytes4 → Chunk → Prop
  | ihdr (c : Chunk) : IsChunk (.ihdr c) Config.tagIHDR c
  | idat (c : Chunk) : IsChunk (.idat c) Config.tagIDAT c
  | iccp (c : Chunk) : IsChunk (.iccp c) Config.tagICCP c
  | iend (c : Chunk) : IsChunk (.iend c) Config.tagIEND c
  | other (tag : Bytes4) (c : Chunk) : IsChunk (.other tag c) tag c

theorem isChunk_chunkClass (seen : Bool) (tag : Bytes4) (c : Chunk) : IsChunk (chunkClass seen tag c) tag c := by
  unfold chunkClass
  split
  · next h =>
    obtain ⟨-, rfl⟩ : seen = false ∧ tag = Config.tagIHDR := by simpa using h
    exact .ihdr c
  split
  · next h => obtain rfl := beq_iff_eq.mp h; exact .idat c
  split
  · next h => obtain rfl := beq_iff_eq.mp h; exact .iccp c
  split
  · next h => obtain rfl := beq_iff_eq.mp h; exact .iend c
  · exact .other tag c

/-- Once a header is accepted every chunk but an `IDAT` ends a run (R110). -/
theorem endsRun_chunkClass {tag : Bytes4} (c : Chunk) (ht : tag ≠ Config.tagIDAT) :
    endsRun (chunkClass true tag c) = true := by
  simp only [chunkClass, Bool.not_true, Bool.false_and, Bool.false_eq_true, if_false, beq_iff_eq, ht]
  split
  · rfl
  split <;> rfl

theorem isChunk_of_endsRun {i : Instr} (h : endsRun i = true) : ∃ tag c, IsChunk i tag c := by
  cases i with
  | iccp c => exact ⟨_, c, .iccp c⟩
  | iend c => exact ⟨_, c, .iend c⟩
  | other tag c => exact ⟨tag, c, .other tag c⟩
  | _ => exact absurd h Bool.false_ne_true

/-- A chunk that was decoded at `POS` lies inside the stream (R103). -/
theorem decode_chunk_fits {seen : Bool} {s : State} {i : Instr} {rest : List Byte}
    (h : decode (.chunk seen) (s.launch.input.drop s.pos) = .ok (i, rest)) :
    ∃ tag c, i = chunkClass seen tag c ∧ s.pos + 12 + c.clen.toNat ≤ s.launch.input.length := by
  obtain ⟨tag, c, hwf, hi, hbs⟩ := decodeChunk_ok h
  have hlen := congrArg List.length hbs
  rw [List.length_drop, List.length_append, chunkBytes_length] at hlen
  exact ⟨tag, c, hi, by rw [Chunk.clen_toNat hwf]; omega⟩

/-- The instruction a launch fetches (R101, R150), with what the fetch has established. -/
inductive Fetches (s : State) : Instr → Prop
  | sig (hflow : s.flow = .between) (hpos : s.pos = 0) : Fetches s .sig
  | chunk (tag : Bytes4) (c : Chunk) (hflow : s.flow = .between) (hpos : s.pos ≠ 0)
      (hfits : s.pos + 12 + c.clen.toNat ≤ s.launch.input.length) : Fetches s (chunkClass s.cps.ihdrSeen tag c)
  | scanline (ftype : Byte) (data : List Byte) (pending : Instr) (bpp : Nat) (hflow : s.flow = .flushing pending)
      (hrow : s.row < s.hdr.height.toNat) (hbpp : bppOf s.hdr.colorType = some bpp)
      (hlen : data.length = strideOf s.hdr bpp) : Fetches s (scanlineClass ftype data)
  | pending (i : Instr) (hflow : s.flow = .flushing i) (hrow : s.hdr.height.toNat ≤ s.row) : Fetches s i

/-! ### The outcome of an action -/

/-- An action carried out: `step` is this of `nextAction`. -/
def Action.result : Action → Result
  | .exec i s => exec i s
  | .answer r => r

theorem step_eq_result (s : State) : step s = Action.result (nextAction s) := by
  unfold step; cases nextAction s <;> rfl

theorem step_launch {s : State} (hrun : s.phase = .run) (hq : NoReset s) : step s = Action.result (runAction s) := by
  rw [step_eq_result, step_run_noReset hrun hq]

theorem step_reset {s : State} {rest : List HostOp} (hq : s.hostQueue = .reset :: rest) :
    step s = .next (applyReset rest s) := by simp [step, nextAction, hq]

theorem step_host {s : State} {op : HostOp} {rest : List HostOp} (hrun : s.phase ≠ .run)
    (hq : s.hostQueue = op :: rest) (hop : op ≠ .reset) :
    step s = Action.result (hostAction op { s with hostQueue := rest }) := by
  rw [step_eq_result]; simp [nextAction, hq, hrun, hop]

theorem step_no_transaction {s : State} (hrun : s.phase ≠ .run) (hq : s.hostQueue = []) :
    step s = .refused .noTransaction := by simp [step, nextAction, hq, hrun]

/-- The four ways a step begins: a reset, a launch going on, another host transaction, or nothing to do. -/
theorem step_begins (s : State) :
    (∃ rest, s.hostQueue = .reset :: rest ∧ step s = .next (applyReset rest s)) ∨
      (s.phase = .run ∧ NoReset s ∧ step s = Action.result (runAction s)) ∨
      (∃ op rest, s.phase ≠ .run ∧ s.hostQueue = op :: rest ∧ op ≠ .reset ∧
        step s = Action.result (hostAction op { s with hostQueue := rest })) ∨
      (s.phase ≠ .run ∧ s.hostQueue = [] ∧ step s = .refused .noTransaction) := by
  by_cases hq : NoReset s
  · by_cases hrun : s.phase = .run
    · exact .inr (.inl ⟨hrun, hq, step_launch hrun hq⟩)
    · cases hs : s.hostQueue with
      | nil => exact .inr (.inr (.inr ⟨hrun, rfl, step_no_transaction hrun hs⟩))
      | cons op rest =>
        have hop : op ≠ .reset := by rintro rfl; exact hq (by rw [hs]; rfl)
        exact .inr (.inr (.inl ⟨op, rest, hrun, rfl, hop, step_host hrun hs hop⟩))
  · obtain ⟨rest, hs⟩ : ∃ rest, s.hostQueue = .reset :: rest := by
      simpa [NoReset, List.head?_eq_some_iff] using hq
    exact .inl ⟨rest, hs, step_reset hs⟩

/-! ### Exceptions -/

/-- The state after an exception, as far as it is defined (R31, R216). -/
structure Raised (t : State) : Prop where
  phase : t.phase = .fault
  err : t.err ≠ .noError

theorem raised_raise (k : ErrKind) (s : State) (hk : k ≠ .noError := by decide) : Raised (raise k s) := ⟨rfl, hk⟩

/-! ### The class of a chunk -/

/-- What checks 2 and 3 of a chunk step (R111 to R117) make of the state `b` in which they run. -/
inductive ClassEffect (b : State) : State → Prop
  | raised {t : State} (h : Raised t) : ClassEffect b t
  | header (h : ImageHeader) (hseen : b.cps.ihdrSeen = false) (hw : h.width ≠ 0) (hh : h.height ≠ 0) :
      ClassEffect b { b with hdr := h, cps := b.cps.markIhdr }
  | imageData (bytes : List Byte) (hseen : b.cps.ihdrSeen = true) :
      ClassEffect b { b with idatbuf := memAppend b.idatbuf bytes, cps := b.cps.markIdat }
  | discarded (hseen : b.cps.ihdrSeen = true) : ClassEffect b b
  | terminated (hseen : b.cps.ihdrSeen = true) :
      ClassEffect b { b with cps := b.cps.markIend, endCause := .iend, phase := .done }

theorem requireHeader_effect {body : State → Result} {b t : State}
    (hbody : b.cps.ihdrSeen = true → body b = .next t → ClassEffect b t) (h : requireHeader body b = .next t) :
    ClassEffect b t := by
  cases hseen : b.cps.ihdrSeen with
  | true => exact hbody hseen (by rwa [requireHeader_seen hseen] at h)
  | false =>
    rw [requireHeader_unseen hseen] at h; cases h
    exact .raised (raised_raise _ _)

theorem ihdrBody_effect {c : Chunk} {b t : State} (h : ihdrBody c b = .next t) : ClassEffect b t := by
  unfold ihdrBody acceptHeader at h
  split at h
  · next hseen => cases h; exact .discarded hseen
  next hseen =>
  split at h
  · cases h; exact .raised (raised_raise _ _)
  split at h
  · cases h; exact .raised (raised_raise _ _)
  next hdim =>
  split at h
  · cases h; exact .raised (raised_raise _ _)
  · cases h
    exact .header _ (by simpa using hseen) (fun e => hdim (.inl e)) (fun e => hdim (.inr e))

theorem idatBody_effect {c : Chunk} {b t : State} (hseen : b.cps.ihdrSeen = true) (h : idatBody c b = .next t) :
    ClassEffect b t := by
  cases h; exact .imageData c.payload hseen

theorem iccpBody_effect {b t : State} (hseen : b.cps.ihdrSeen = true) (h : iccpBody b = .next t) : ClassEffect b t := by
  unfold iccpBody at h
  split at h
  · cases h; exact .raised (raised_raise _ _)
  · cases h; exact .discarded hseen

theorem otherBody_effect {b t : State} (hseen : b.cps.ihdrSeen = true) (h : otherBody b = .next t) :
    ClassEffect b t := by
  cases h; exact .discarded hseen

theorem iendBody_effect {b t : State} (hseen : b.cps.ihdrSeen = true) (h : iendBody b = .next t) : ClassEffect b t := by
  cases h; exact .terminated hseen

/-! ### A chunk instruction -/

/-- What a chunk instruction makes of a state (R103, R105, R110): it opens the flush of the run it ends, or its class runs, after
the fetch or after the flush. -/
inductive ChunkEffect (i : Instr) (tag : Bytes4) (c : Chunk) (s : State) : State → Prop
  | raised {t : State} (h : Raised t) : ChunkEffect i tag c s t
  | opened (z : List Byte) (bpp : Nat) (hflow : s.flow = .between) (hrun : s.cps.inRun = true)
      (htag : tag ≠ Config.tagIDAT) (hsup : supported s.hdr = true) (hbpp : bppOf s.hdr.colorType = some bpp)
      (hlen : z.length = s.hdr.height.toNat * rowBytesOf s.hdr bpp) :
      ChunkEffect i tag c s { latchChunk tag c s with
        zbuf := z, zidx := 0, row := 0, oidx := s.pixbuf.length, flow := .flushing i }
  | fetched {t : State} (hflow : s.flow = .between) (h : ClassEffect (latchChunk tag c s) t) : ChunkEffect i tag c s t
  | resumed {t : State} (j : Instr) (hflow : s.flow = .flushing j) (h : ClassEffect (endFlush s) t) :
      ChunkEffect i tag c s t

theorem chunkStep_effect {i : Instr} {tag : Bytes4} {c : Chunk} {body : State → Result} {s t : State}
    (hbody : ∀ b t, body b = .next t → ClassEffect b t) (h : chunkStep i tag c body s = .next t) :
    ChunkEffect i tag c s t := by
  cases hflow : s.flow with
  | flushing j => rw [chunkStep_flushing hflow] at h; exact .resumed j hflow (hbody _ _ h)
  | between =>
    by_cases hend : s.cps.inRun = false ∨ tag = Config.tagIDAT
    · rw [chunkStep_body hflow hend] at h; exact .fetched hflow (hbody _ _ h)
    obtain ⟨hrun, htag⟩ : s.cps.inRun = true ∧ tag ≠ Config.tagIDAT := by simpa using hend
    rw [chunkStep_runEnd hflow hrun htag] at h
    obtain rfl | ⟨z, -, h⟩ := beginFlush_next h
    · exact .raised (raised_raise _ _)
    obtain ⟨-, rfl⟩ | ⟨hsup, bpp, hbpp, ⟨-, rfl⟩ | ⟨hlen, rfl⟩⟩ := enterEngine_next h
    · exact .raised (raised_raise _ _)
    · exact .raised (raised_raise _ _)
    · exact .opened z bpp hflow hrun htag hsup hbpp hlen

theorem exec_chunk_effect {i : Instr} {tag : Bytes4} {c : Chunk} {s t : State} (hi : IsChunk i tag c)
    (h : exec i s = .next t) : ChunkEffect i tag c s t := by
  cases hi with
  | ihdr => exact chunkStep_effect (fun _ _ => ihdrBody_effect) h
  | idat => exact chunkStep_effect (fun _ _ => requireHeader_effect idatBody_effect) h
  | iccp => exact chunkStep_effect (fun _ _ => requireHeader_effect iccpBody_effect) h
  | iend => exact chunkStep_effect (fun _ _ => requireHeader_effect iendBody_effect) h
  | other => exact chunkStep_effect (fun _ _ => requireHeader_effect otherBody_effect) h

/-! ### The signature and the scanlines -/

theorem execSig_effect {s t : State} (h : execSig s = .next t) :
    Raised t ∨ (8 ≤ s.launch.input.length ∧ t = { s with pos := 8 }) := by
  unfold execSig at h
  split at h
  · cases h; exact .inl (raised_raise _ _)
  next hlen =>
  split at h
  · cases h; exact .inl (raised_raise _ _)
  · cases h; exact .inr ⟨Nat.le_of_not_lt hlen, rfl⟩

/-- A scanline instruction raises `BadFilterType` or is a reconstruction with one of the five predictors (R77). -/
theorem exec_scanlineClass (ftype : Byte) (data : List Byte) :
    (∀ s, exec (scanlineClass ftype data) s = .next (raise .badFilterType { s with ft := ftype })) ∨
      ∃ ft pred, ∀ s, exec (scanlineClass ftype data) s = execRow ft pred data s := by
  unfold scanlineClass
  split
  · exact .inr ⟨0, predNone, fun _ => rfl⟩
  split
  · exact .inr ⟨1, predSub, fun _ => rfl⟩
  split
  · exact .inr ⟨2, predUp, fun _ => rfl⟩
  split
  · exact .inr ⟨3, predAverage, fun _ => rfl⟩
  split
  · exact .inr ⟨4, predPaeth, fun _ => rfl⟩
  · exact .inl fun _ => rfl

/-! ### A step of a launch -/

/-- Two states agree in all that a launch reads to find its next action (R101, R103, R150). -/
structure FetchAlike (s s' : State) : Prop where
  flow : s'.flow = s.flow
  pos : s'.pos = s.pos
  launch : s'.launch = s.launch
  cps : s'.cps = s.cps
  row : s.flow ≠ .between → s'.row = s.row
  zidx : s.flow ≠ .between → s'.zidx = s.zidx
  zbuf : s'.zbuf = s.zbuf
  width : s.flow ≠ .between → s'.hdr.width = s.hdr.width
  height : s.flow ≠ .between → s'.hdr.height = s.hdr.height
  colorType : s.flow ≠ .between → s'.hdr.colorType = s.hdr.colorType

theorem fetchAlike_refl (s : State) : FetchAlike s s := by constructor <;> intros <;> rfl

/-- Two launches act alike: the end of the stream (R121), the same fetched instruction, the exception of the fetch (R219), or the
same stop of the model. -/
inductive ActAlike (s s' : State) : Prop
  | endOfStream (hflow : s.flow = .between) (hpos : s.pos ≠ 0) (hend : s.pos = s.launch.input.length)
      (e : runAction s = .answer (.next (endOfStream s))) (e' : runAction s' = .answer (.next (endOfStream s')))
  | fetched (i : Instr) (hi : Fetches s i) (e : runAction s = .exec i s) (e' : runAction s' = .exec i s')
  | truncated (e : runAction s = .answer (.next (raise .truncatedChunk s)))
      (e' : runAction s' = .answer (.next (raise .truncatedChunk s')))
  | stopped (r : Fault) (e : runAction s = .answer (.fault r)) (e' : runAction s' = .answer (.fault r))

theorem chunkAction_alike {s s' : State} (h : FetchAlike s s') (hflow : s.flow = .between) : ActAlike s s' := by
  have e : runAction s = chunkAction s := runAction_between hflow
  have e' : runAction s' = chunkAction s' := runAction_between (h.flow.trans hflow)
  rw [chunkAction] at e
  rw [chunkAction, h.pos, h.launch, h.cps] at e'
  by_cases h0 : s.pos = 0
  · rw [if_pos h0] at e e'
    exact .fetched _ (.sig hflow h0) e e'
  rw [if_neg h0] at e e'
  by_cases hn : s.pos = s.launch.input.length
  · rw [if_pos hn] at e e'
    exact .endOfStream hflow h0 hn e e'
  rw [if_neg hn] at e e'
  cases hd : decode (.chunk s.cps.ihdrSeen) (s.launch.input.drop s.pos) with
  | error err => rw [hd] at e e'; exact .truncated e e'
  | ok p =>
    rw [hd] at e e'
    obtain ⟨tag, c, hi, hfits⟩ := decode_chunk_fits (i := p.1) (rest := p.2) hd
    exact .fetched p.1 (hi ▸ .chunk tag c hflow h0 hfits) e e'

theorem flushAction_alike {s s' : State} (h : FetchAlike s s') {pending : Instr} (hflow : s.flow = .flushing pending) :
    ActAlike s s' := by
  have hf : s.flow ≠ .between := by rw [hflow]; nofun
  have hstride : ∀ bpp, strideOf s'.hdr bpp = strideOf s.hdr bpp := fun bpp => by rw [strideOf, h.width hf, strideOf]
  have e : runAction s = flushAction pending s := runAction_flushing hflow
  have e' : runAction s' = flushAction pending s' := runAction_flushing (h.flow.trans hflow)
  rw [flushAction] at e
  simp only [flushAction, h.row hf, h.height hf, h.colorType hf, h.zbuf, h.zidx hf, hstride] at e'
  by_cases hrow : s.row < s.hdr.height.toNat
  · rw [if_pos hrow] at e e'
    cases hbpp : bppOf s.hdr.colorType with
    | none => rw [hbpp] at e e'; exact .stopped _ e e'
    | some bpp =>
      simp only [hbpp] at e e'
      cases hd : decode (.scanline (strideOf s.hdr bpp)) (s.zbuf.drop s.zidx) with
      | error err => rw [hd] at e e'; exact .stopped _ e e'
      | ok p =>
        rw [hd] at e e'
        obtain ⟨ft, data, hlen, hi, -⟩ := decodeScanline_ok (i := p.1) (rest := p.2) hd
        exact .fetched p.1 (hi ▸ .scanline ft data pending bpp hflow hrow hbpp hlen) e e'
  · rw [if_neg hrow] at e e'
    exact .fetched pending (.pending pending hflow (Nat.le_of_not_lt hrow)) e e'

theorem runAction_alike {s s' : State} (h : FetchAlike s s') : ActAlike s s' := by
  cases hflow : s.flow with
  | between => exact chunkAction_alike h hflow
  | flushing pending => exact flushAction_alike h hflow

/-- Everything a step of a launch makes of a state of the invariant. -/
inductive LaunchStep (s : State) : State → Prop
  | raised {t : State} (h : Raised t) : LaunchStep s t
  | signature (hflow : s.flow = .between) (hpos : s.pos = 0) (hlen : 8 ≤ s.launch.input.length) :
      LaunchStep s { s with pos := 8 }
  | endOfStream (hflow : s.flow = .between) (hpos : s.pos ≠ 0) (hend : s.pos = s.launch.input.length) :
      LaunchStep s (endOfStream s)
  | chunk (i : Instr) (tag : Bytes4) (c : Chunk) {t : State} (hflow : s.flow = .between) (hpos : s.pos ≠ 0)
      (hfits : s.pos + 12 + c.clen.toNat ≤ s.launch.input.length) (hi : i = chunkClass s.cps.ihdrSeen tag c)
      (h : ChunkEffect i tag c s t) : LaunchStep s t
  | scanline (pending : Instr) (ftype : Byte) (pred : Predictor) (data : List Byte) (bpp : Nat)
      (hflow : s.flow = .flushing pending) (hrow : s.row < s.hdr.height.toNat)
      (hbpp : bppOf s.hdr.colorType = some bpp) (hlen : data.length = strideOf s.hdr bpp) :
      LaunchStep s { s with
        ft := ftype
        zidx := s.zidx + (1 + data.length)
        pixbuf := reconstructRow bpp (strideOf s.hdr bpp) pred data s.pixbuf
        oidx := s.pixbuf.length + data.length
        row := s.row + 1 }
  | resumed (pending : Instr) {t : State} (hflow : s.flow = .flushing pending) (hrow : s.hdr.height.toNat ≤ s.row)
      (h : ClassEffect (endFlush s) t) : LaunchStep s t

theorem inv_live {s : State} (hinv : Inv s) (hrun : s.phase = .run) : LiveInv s :=
  hinv.live (by rw [hrun]; nofun)

/-- A run of image data, and so a flush, needs an accepted header (R113, R117). -/
theorem ihdrSeen_of_inRun {s : State} (l : LiveInv s) (hin : s.cps.inRun = true) : s.cps.ihdrSeen = true :=
  l.idat_ihdr (l.in_run_idat hin)

/-- Inside a flush: the chunk that ended the run waits, and a header is accepted (R110). -/
theorem flush_pending {s : State} (l : LiveInv s) {i : Instr} (hflow : s.flow = .flushing i) :
    (∃ tag c, IsChunk i tag c) ∧ s.cps.ihdrSeen = true := by
  obtain ⟨-, -, _, _, hflush⟩ := l.flush i hflow
  exact ⟨isChunk_of_endsRun hflush.pending_ends_run, ihdrSeen_of_inRun l hflush.in_run⟩

/-- A fetched instruction's effect, from a state of the invariant. -/
theorem exec_fetched {s t : State} {i : Instr} (hlive : LiveInv s) (hi : Fetches s i) (h : exec i s = .next t) :
    LaunchStep s t := by
  cases hi with
  | sig hflow hpos =>
    obtain hr | ⟨hlen, rfl⟩ := execSig_effect h
    · exact .raised hr
    · exact .signature hflow hpos hlen
  | chunk tag c hflow hpos hfits =>
    exact .chunk _ tag c hflow hpos hfits rfl (exec_chunk_effect (isChunk_chunkClass _ tag c) h)
  | scanline ftype data pending bpp hflow hrow hbpp hlen =>
    obtain he | ⟨ft, pred, he⟩ := exec_scanlineClass ftype data
    · rw [he] at h; cases h; exact .raised (raised_raise _ _)
    · rw [he, execRow_eq hbpp] at h; cases h
      exact .scanline pending ft pred data bpp hflow hrow hbpp hlen
  | pending _ hflow hrow =>
    obtain ⟨⟨tag, c, hc⟩, -⟩ := flush_pending hlive hflow
    cases exec_chunk_effect hc h with
    | raised hr => exact .raised hr
    | opened z bpp hbetween => exact absurd (hflow.symm.trans hbetween) nofun
    | fetched hbetween => exact absurd (hflow.symm.trans hbetween) nofun
    | resumed j _ hclass => exact .resumed i hflow hrow hclass

theorem step_launchStep {s t : State} (hinv : Inv s) (hrun : s.phase = .run) (hq : NoReset s) (h : step s = .next t) :
    LaunchStep s t := by
  rw [step_launch hrun hq] at h
  cases runAction_alike (fetchAlike_refl s) with
  | endOfStream hflow hpos hend e => rw [e] at h; cases h; exact .endOfStream hflow hpos hend
  | fetched i hi e => rw [e] at h; exact exec_fetched (inv_live hinv hrun) hi h
  | truncated e => rw [e] at h; cases h; exact .raised (raised_raise _ _)
  | stopped r e => rw [e] at h; cases h

/-! ### A host transaction -/

/-- Everything a host transaction other than reset makes of a state (R190 to R197). -/
inductive HostStep (s : State) : State → Prop
  | delivered (r : HostReply) : HostStep s (deliver r s)
  | started (p : LaunchParams) (hidle : s.phase = .idle) : HostStep s { s with launch := p, phase := .run }
  | ioError (p : LaunchParams) (hidle : s.phase = .idle) : HostStep s (raise .ioError { s with launch := p })
  | reversed (hdone : s.phase = .done) (hc : s.complete = true) (hbpp : bppOf s.hdr.colorType = some 4) :
      HostStep s { s with
        pixbuf := swapRows s.hdr.width.toNat s.hdr.height.toNat (s.hdr.height.toNat / 2) s.pixbuf }

theorem whenDone_next {k : State → Result} {s t : State} (h : whenDone k s = .next t) :
    s.phase = .done ∧ k s = .next t := by
  unfold whenDone at h
  split at h
  · next hp => exact ⟨by simpa using hp, h⟩
  · cases h

theorem whenHeader_next {k : ImageHeader → State → Result} {s t : State} (h : whenHeader k s = .next t) :
    s.cps.ihdrSeen = true ∧ k s.hdr s = .next t := by
  unfold whenHeader at h
  split at h
  · next hv => exact ⟨hv, h⟩
  · cases h

theorem execStart_effect {p : LaunchParams} {s t : State} (h : execStart p s = .next t) : HostStep s t := by
  unfold execStart at h
  split at h
  · cases h
  next hidle =>
  have hidle : s.phase = .idle := not_not.mp hidle
  split at h
  · cases h; exact .ioError p hidle
  · cases h; exact .started p hidle

theorem execGetHeader_effect {s t : State} (h : execGetHeader s = .next t) : HostStep s t := by
  obtain ⟨-, h⟩ := whenHeader_next (whenDone_next h).2
  cases h; exact .delivered _

theorem execGetImageData_effect {s t : State} (h : execGetImageData s = .next t) : HostStep s t := by
  obtain ⟨-, h⟩ := whenDone_next h
  cases h; exact .delivered _

theorem execCompareSize_effect {w h : Word} {s t : State} (he : execCompareSize w h s = .next t) : HostStep s t := by
  obtain ⟨-, he⟩ := whenHeader_next (whenDone_next he).2
  cases he; exact .delivered _

theorem execReverseImage_effect {s t : State} (h : execReverseImage s = .next t) : HostStep s t := by
  obtain ⟨hdone, h⟩ := whenDone_next h
  split at h
  · next hc => cases h; exact .reversed hdone hc.1 hc.2
  · cases h

theorem readEnd_effect {s t : State} (h : readEnd s = .next t) : HostStep s t := by
  unfold readEnd at h
  split at h
  · cases h
  · cases h; exact .delivered _

theorem readCps_effect {s t : State} (h : readCps s = .next t) : HostStep s t := by
  unfold readCps at h
  split at h
  · cases h
  · cases h; exact .delivered _

theorem hostAction_effect {op : HostOp} {s t : State} (hop : op ≠ .reset)
    (h : Action.result (hostAction op s) = .next t) : HostStep s t := by
  cases op with
  | reset => exact absurd rfl hop
  | start p => exact execStart_effect h
  | getHeader => exact execGetHeader_effect h
  | getImageData => exact execGetImageData_effect h
  | compareSize w h' => exact execCompareSize_effect h
  | reverseImage => exact execReverseImage_effect h
  | readPhase => cases h; exact .delivered _
  | readErr => cases h; exact .delivered _
  | readEnd => exact readEnd_effect h
  | readCps => exact readCps_effect h

end Sys2Proof.Proofs
end

section
/-! PROOF. The invariant: at reset, and kept by every step (O3, O4). -/

namespace Sys2Proof.Proofs

open Sys2Proof Sys2Proof.Machine Sys2Proof.Safety

/-! ### The vertical flip keeps the buffer's length -/

theorem swapUnits_length {a b : Nat} {pix : List Byte} (ha : a + 4 ≤ pix.length) (hb : b + 4 ≤ pix.length) :
    (swapUnits a b pix).length = pix.length := by
  have hra : (memRead pix a 4).length = 4 := memRead_length ha
  have hrb : (memRead pix b 4).length = 4 := memRead_length hb
  have hw : (memWrite pix a (memRead pix b 4)).length = pix.length := memWrite_length (by rw [hrb]; exact ha)
  rw [swapUnits, memWrite_length (by rw [hra, hw]; exact hb), hw]

/-- The unit of column `x` in row `k` of an image lies inside its buffer. -/
theorem unit_end_le {width height k x : Nat} (hk : k < height) (hx : x < width) :
    (k * width + x) * 4 + 4 ≤ width * height * 4 := by
  have h : (k + 1) * width ≤ height * width := Nat.mul_le_mul_right width hk
  rw [Nat.succ_mul, Nat.mul_comm height] at h
  omega

theorem swapRowPair_length {width height k k' : Nat} (hk : k < height) (hk' : k' < height) {pix : List Byte}
    (hlen : pix.length = width * height * 4) {n : Nat} (hn : n ≤ width) :
    (swapRowPair width k k' n pix).length = pix.length := by
  induction n with
  | zero => rfl
  | succ n ih =>
    have ih := ih (by omega)
    rw [swapRowPair, swapUnits_length, ih]
    · rw [ih, hlen]; exact unit_end_le hk hn
    · rw [ih, hlen]; exact unit_end_le hk' hn

theorem swapRows_length {width height : Nat} {pix : List Byte} (hlen : pix.length = width * height * 4) {n : Nat}
    (hn : n ≤ height) : (swapRows width height n pix).length = pix.length := by
  induction n with
  | zero => rfl
  | succ n ih =>
    have ih := ih (by omega)
    rw [swapRows, swapRowPair_length (height := height) (by omega) (by omega) (ih.trans hlen) le_rfl, ih]

/-! ### Reset, and what the host's own lists do to the invariant -/

/-- Settles O3: every clause is about the reset values alone. -/
theorem invariantAtReset : Obligations.InvariantAtReset where
  fault_err := by decide
  live _ :=
    { in_run_idat := by decide
      idat_ihdr := by decide
      iend_ihdr := by decide
      iend_end := by decide
      done_end := by decide
      hdr_accepted := by decide
      hdr_absent := by decide
      pos_le := by decide
      pos_signature := by decide
      pos_zero := by decide
      pos_done := by decide
      idle_start := by decide
      boundary := fun _ => ⟨rfl, fun h => absurd rfl h, fun _ _ _ _ => dvd_zero _, fun _ _ => rfl⟩
      flush := nofun }

/-- The invariant does not speak of the host's queue and copies. -/
theorem inv_withHost {s : State} (hinv : Inv s) (q : List HostOp) (r : List HostReply) :
    Inv { s with hostQueue := q, replies := r } where
  fault_err := hinv.fault_err
  live hp :=
    have l := hinv.live hp
    { l with
      boundary := fun hf => { l.boundary hf with }
      flush := fun i hf =>
        have ⟨hrun, hpos, bpp, images, hflush⟩ := l.flush i hf
        ⟨hrun, hpos, bpp, images, { hflush with }⟩ }

theorem inv_applyReset (rest : List HostOp) (s : State) : Inv (applyReset rest s) :=
  inv_withHost invariantAtReset rest s.replies

theorem inv_of_raised {t : State} (h : Raised t) : Inv t :=
  ⟨iff_of_true h.phase h.err, fun hp => absurd h.phase hp⟩

/-- Outside `FAULT` no error has been raised. -/
theorem inv_noError {s : State} (hinv : Inv s) (hp : s.phase ≠ .fault) : s.err = .noError :=
  not_not.mp (mt hinv.fault_err.mpr hp)

theorem inv_of_live {s : State} (hp : s.phase ≠ .fault) (he : s.err = .noError) (l : LiveInv s) : Inv s :=
  ⟨iff_of_false hp (not_not.mpr he), fun _ => l⟩

/-! ### The host's steps -/

theorem complete_iff {s : State} : s.complete = true ↔
    ∃ bpp, bppOf s.hdr.colorType = some bpp ∧ s.phase = .done ∧ s.cps.ihdrSeen = true ∧ s.hdr.bitDepth = 8 ∧
      s.pixbuf.length = s.hdr.width.toNat * s.hdr.height.toNat * bpp := by
  cases hbpp : bppOf s.hdr.colorType <;> simp [State.complete, State.hdrValid, hbpp, and_assoc]

theorem pixbuf_length_of_complete {s : State} (hc : s.complete = true) (hbpp : bppOf s.hdr.colorType = some 4) :
    s.pixbuf.length = s.hdr.width.toNat * s.hdr.height.toNat * 4 := by
  obtain ⟨bpp, hb, -, -, -, hlen⟩ := complete_iff.mp hc
  obtain rfl : bpp = 4 := Option.some.inj (hb.symm.trans hbpp)
  exact hlen

/-- The invariant speaks of `PIXBUF` only by its length. -/
theorem liveInv_flipped {s : State} (l : LiveInv s) {pix : List Byte} (hdone : s.phase = .done)
    (hlen : pix.length = s.pixbuf.length) : LiveInv { s with pixbuf := pix } :=
  have hnil : s.pixbuf = [] → pix = [] := fun h => List.eq_nil_of_length_eq_zero (by rw [hlen, h]; rfl)
  { l with
    hdr_absent := fun h => ⟨(l.hdr_absent h).1, hnil (l.hdr_absent h).2⟩
    boundary := fun hf =>
      { l.boundary hf with
        pixbuf_whole_images := fun bpp h hs hb => by
          show _ ∣ pix.length
          rw [hlen]; exact (l.boundary hf).pixbuf_whole_images bpp h hs hb
        pixbuf_unsupported := fun h hs => hnil ((l.boundary hf).pixbuf_unsupported h hs) }
    flush := fun i hf => absurd (hdone.symm.trans (l.flush i hf).1) nofun }

theorem liveInv_started {s : State} (l : LiveInv s) (p : LaunchParams) (hidle : s.phase = .idle) :
    LiveInv { s with launch := p, phase := .run } :=
  have ⟨hpos, _, hflow⟩ := l.idle_start hidle
  have hend : s.endCause = .none := not_not.mp fun h => absurd (hidle.symm.trans (l.done_end.mpr h)) nofun
  { l with
    done_end := iff_of_false nofun (not_not.mpr hend)
    pos_le := by show s.pos ≤ _; omega
    pos_done := nofun
    idle_start := nofun
    boundary := fun hf => { l.boundary hf with }
    flush := fun _ hf => absurd (hflow.symm.trans hf) nofun }

theorem hostStep_keeps_inv {s t : State} (hinv : Inv s) (h : HostStep s t) : Inv t := by
  cases h with
  | delivered r => exact inv_withHost hinv s.hostQueue _
  | ioError p => exact inv_of_raised (raised_raise _ _)
  | started p hidle =>
    have hp : s.phase ≠ .fault := by rw [hidle]; nofun
    have he : s.err = .noError := inv_noError hinv hp
    exact inv_of_live nofun he (liveInv_started (hinv.live hp) p hidle)
  | reversed hdone hc hbpp =>
    have hp : s.phase ≠ .fault := by rw [hdone]; nofun
    have he : s.err = .noError := inv_noError hinv hp
    have hlen := swapRows_length (pixbuf_length_of_complete hc hbpp) (Nat.div_le_self s.hdr.height.toNat 2)
    exact inv_of_live hp he (liveInv_flipped (hinv.live hp) hdone hlen)

/-! ### Inside a chunk step: after the fetch or after the flush, before the class -/

/-- The invariant in the state in which the class of a chunk runs. -/
structure Ready (b : State) : Prop where
  run : b.phase = .run
  between : b.flow = .between
  pos_ge : 8 ≤ b.pos
  noError : b.err = .noError
  live : LiveInv b

/-- In `RUN` no end cause is recorded yet, and no `IEND` was seen (R12, R116). -/
theorem liveInv_run {s : State} (l : LiveInv s) (hrun : s.phase = .run) :
    s.endCause = .none ∧ s.cps.iendSeen = false := by
  have hend : s.endCause = .none := not_not.mp fun h => absurd (hrun.symm.trans (l.done_end.mpr h)) nofun
  refine ⟨hend, Bool.eq_false_iff.mpr fun h => ?_⟩
  exact absurd (hend.symm.trans (l.iend_end.mp h)) nofun

theorem ready_latchChunk {s : State} (hinv : Inv s) (hrun : s.phase = .run) (hflow : s.flow = .between)
    (hpos : s.pos ≠ 0) (tag : Bytes4) {c : Chunk} (hfits : s.pos + 12 + c.clen.toNat ≤ s.launch.input.length) :
    Ready (latchChunk tag c s) :=
  have l := inv_live hinv hrun
  have h8 : 8 ≤ s.pos := l.pos_signature.resolve_left hpos
  have he : s.err = .noError := inv_noError hinv (by rw [hrun]; nofun)
  have h8' : 8 ≤ (latchChunk tag c s).pos := by rw [latchChunk_pos]; omega
  { run := hrun
    between := hflow
    pos_ge := h8'
    noError := he
    live :=
      { l with
        pos_le := hfits
        pos_signature := .inr h8'
        pos_zero := fun h => absurd (h ▸ h8') (by decide)
        pos_done := fun _ => h8'
        idle_start := fun h => absurd (hrun.symm.trans h) nofun
        boundary := fun hf => { l.boundary hf with }
        flush := fun _ hf => absurd (hflow.symm.trans hf) nofun } }

theorem ready_endFlush {s : State} (hinv : Inv s) (hrun : s.phase = .run) {i : Instr} (hflow : s.flow = .flushing i)
    (hrow : s.hdr.height.toNat ≤ s.row) : Ready (endFlush s) :=
  have l := inv_live hinv hrun
  have ⟨_, h8, bpp, images, hflush⟩ := l.flush i hflow
  have hseen : s.cps.ihdrSeen = true := ihdrSeen_of_inRun l hflush.in_run
  have he : s.err = .noError := inv_noError hinv (by rw [hrun]; nofun)
  have hrow : s.row = s.hdr.height.toNat := Nat.le_antisymm hflush.row_le hrow
  { run := hrun
    between := rfl
    pos_ge := h8
    noError := he
    live :=
      { l with
        in_run_idat := nofun
        hdr_absent := fun h => absurd (hseen.symm.trans h) nofun
        idle_start := fun h => absurd (hrun.symm.trans h) nofun
        boundary := fun _ =>
          { zbuf_empty := rfl
            idatbuf_in_run := fun h => absurd rfl h
            pixbuf_whole_images := fun bpp' _ _ hb => by
              have hb : bppOf s.hdr.colorType = some bpp' := hb
              obtain rfl : bpp = bpp' := Option.some.inj (hflush.bpp_defined.symm.trans hb)
              refine ⟨images + 1, ?_⟩
              rw [endFlush_pixbuf, endFlush_hdr, hflush.pixbuf_length, hrow]
              ring
            pixbuf_unsupported := fun _ hs => absurd (hflush.format_supported.symm.trans hs) nofun }
        flush := nofun } }

/-- The first `IHDR`: nothing is in the buffers yet (R112, R117). -/
theorem Ready.header {b : State} (hb : Ready b) {h : ImageHeader} (hseen : b.cps.ihdrSeen = false) (hw : h.width ≠ 0)
    (hh : h.height ≠ 0) : LiveInv { b with hdr := h, cps := b.cps.markIhdr } :=
  have l := hb.live
  have ⟨hidat, hpix⟩ := l.hdr_absent hseen
  { l with
    idat_ihdr := fun _ => rfl
    iend_ihdr := fun _ => rfl
    hdr_accepted := fun _ => ⟨hw, hh⟩
    hdr_absent := nofun
    pos_zero := fun h0 => absurd hb.pos_ge (by rw [show b.pos = 0 from h0]; decide)
    idle_start := fun h => absurd (hb.run.symm.trans h) nofun
    boundary := fun hf =>
      { zbuf_empty := (l.boundary hf).zbuf_empty
        idatbuf_in_run := fun h => absurd hidat h
        pixbuf_whole_images := fun bpp _ _ _ => by rw [show b.pixbuf = [] from hpix]; exact dvd_zero _
        pixbuf_unsupported := fun _ _ => hpix }
    flush := fun _ hf => absurd (hb.between.symm.trans hf) nofun }

theorem Ready.imageData {b : State} (hb : Ready b) (bytes : List Byte) (hseen : b.cps.ihdrSeen = true) :
    LiveInv { b with idatbuf := memAppend b.idatbuf bytes, cps := b.cps.markIdat } :=
  have l := hb.live
  { l with
    in_run_idat := fun _ => rfl
    idat_ihdr := fun _ => hseen
    hdr_absent := fun h => absurd (hseen.symm.trans h) nofun
    boundary := fun hf => { l.boundary hf with idatbuf_in_run := fun _ => rfl }
    flush := fun _ hf => absurd (hb.between.symm.trans hf) nofun }

theorem Ready.terminated {b : State} (hb : Ready b) (hseen : b.cps.ihdrSeen = true) :
    LiveInv { b with cps := b.cps.markIend, endCause := .iend, phase := .done } :=
  have l := hb.live
  { l with
    iend_ihdr := fun _ => hseen
    iend_end := iff_of_true rfl rfl
    done_end := iff_of_true rfl nofun
    pos_done := fun _ => hb.pos_ge
    idle_start := nofun
    boundary := fun hf => { l.boundary hf with }
    flush := fun _ hf => absurd (hb.between.symm.trans hf) nofun }

theorem Ready.inv {b : State} (hb : Ready b) : Inv b := inv_of_live (by rw [hb.run]; nofun) hb.noError hb.live

theorem classEffect_keeps_inv {b t : State} (hb : Ready b) (h : ClassEffect b t) : Inv t := by
  have hp : b.phase ≠ .fault := by rw [hb.run]; nofun
  cases h with
  | raised h => exact inv_of_raised h
  | header h hseen hw hh => exact inv_of_live hp hb.noError (hb.header hseen hw hh)
  | imageData bytes hseen => exact inv_of_live hp hb.noError (hb.imageData bytes hseen)
  | discarded => exact hb.inv
  | terminated hseen => exact inv_of_live nofun hb.noError (hb.terminated hseen)

/-! ### The other steps of a launch -/

theorem liveInv_signature {s : State} (l : LiveInv s) (hrun : s.phase = .run) (hflow : s.flow = .between)
    (hlen : 8 ≤ s.launch.input.length) : LiveInv { s with pos := 8 } :=
  { l with
    pos_le := hlen
    pos_signature := .inr le_rfl
    pos_zero := nofun
    pos_done := fun _ => le_rfl
    idle_start := fun h => absurd (hrun.symm.trans h) nofun
    boundary := fun hf => { l.boundary hf with }
    flush := fun _ hf => absurd (hflow.symm.trans hf) nofun }

theorem liveInv_endOfStream {s : State} (l : LiveInv s) (hrun : s.phase = .run) (hflow : s.flow = .between)
    (hpos : s.pos ≠ 0) : LiveInv (endOfStream s) :=
  { l with
    iend_end := iff_of_false (by rw [endOfStream_cps, (liveInv_run l hrun).2]; nofun) nofun
    done_end := iff_of_true rfl nofun
    pos_done := fun _ => l.pos_signature.resolve_left hpos
    idle_start := nofun
    boundary := fun hf => { l.boundary hf with }
    flush := fun _ hf => absurd (hflow.symm.trans hf) nofun }

/-- The engine's entry (R153): no scanline is done, and `PIXBUF` holds whole images. -/
theorem liveInv_opened {b : State} (hb : Ready b) {i : Instr} {z : List Byte} {bpp : Nat} (hend : endsRun i = true)
    (hin : b.cps.inRun = true) (hsup : supported b.hdr = true) (hbpp : bppOf b.hdr.colorType = some bpp)
    (hlen : z.length = b.hdr.height.toNat * rowBytesOf b.hdr bpp) :
    LiveInv { b with zbuf := z, zidx := 0, row := 0, oidx := b.pixbuf.length, flow := .flushing i } :=
  have l := hb.live
  have hseen : b.cps.ihdrSeen = true := ihdrSeen_of_inRun l hin
  have ⟨images, himages⟩ := (l.boundary hb.between).pixbuf_whole_images bpp hseen hsup hbpp
  { l with
    idle_start := fun h => absurd (hb.run.symm.trans h) nofun
    boundary := nofun
    flush := fun j hj => by
      obtain rfl : i = j := Flow.flushing.inj hj
      refine ⟨hb.run, hb.pos_ge, bpp, images, ?_⟩
      exact
        { pending_ends_run := hend
          in_run := hin
          format_supported := hsup
          bpp_defined := hbpp
          zbuf_length := hlen
          row_le := Nat.zero_le _
          zidx_at_row := (Nat.zero_mul _).symm
          oidx_at_end := rfl
          pixbuf_length := by rw [himages]; ring } }

/-- A scanline (R150): every counter of the engine moves on by one scanline. -/
theorem liveInv_scanline {s : State} (l : LiveInv s) {i : Instr} {bpp : Nat} (ftype : Byte) (pred : Predictor)
    {data : List Byte} (hflow : s.flow = .flushing i) (hrow : s.row < s.hdr.height.toNat)
    (hbpp : bppOf s.hdr.colorType = some bpp) (hlen : data.length = strideOf s.hdr bpp) :
    LiveInv { s with
      ft := ftype
      zidx := s.zidx + (1 + data.length)
      pixbuf := reconstructRow bpp (strideOf s.hdr bpp) pred data s.pixbuf
      oidx := s.pixbuf.length + data.length
      row := s.row + 1 } :=
  have ⟨hrun, hpos, bpp', images, hflush⟩ := l.flush i hflow
  have hseen : s.cps.ihdrSeen = true := ihdrSeen_of_inRun l hflush.in_run
  { l with
    hdr_absent := fun h => absurd (hseen.symm.trans h) nofun
    boundary := fun hf => absurd (hflow.symm.trans hf) nofun
    flush := fun j hj => by
      obtain rfl : i = j := Flow.flushing.inj (hflow.symm.trans hj)
      obtain rfl : bpp = bpp' := Option.some.inj (hbpp.symm.trans hflush.bpp_defined)
      refine ⟨hrun, hpos, bpp, images, ?_⟩
      exact
        { hflush with
          row_le := hrow
          zidx_at_row := by
            show s.zidx + (1 + data.length) = (s.row + 1) * rowBytesOf s.hdr bpp
            rw [hflush.zidx_at_row, hlen, rowBytesOf]; ring
          oidx_at_end := (reconstructRow_length _ _ _ _ _).symm
          pixbuf_length := by
            show (reconstructRow bpp (strideOf s.hdr bpp) pred data s.pixbuf).length = _
            rw [reconstructRow_length, hflush.pixbuf_length, hlen]; ring } }

theorem chunkEffect_keeps_inv {i : Instr} {tag : Bytes4} {c : Chunk} {s t : State} (hflow : s.flow = .between)
    (hb : Ready (latchChunk tag c s)) (hi : i = chunkClass s.cps.ihdrSeen tag c) (h : ChunkEffect i tag c s t) :
    Inv t := by
  cases h with
  | raised h => exact inv_of_raised h
  | opened z bpp _ hin htag hsup hbpp hlen =>
    have hseen : s.cps.ihdrSeen = true := ihdrSeen_of_inRun (s := latchChunk tag c s) hb.live hin
    have hend : endsRun i = true := by rw [hi, hseen]; exact endsRun_chunkClass c htag
    have hp : s.phase ≠ .fault := by rw [show s.phase = .run from hb.run]; nofun
    exact inv_of_live hp hb.noError (liveInv_opened hb hend hin hsup hbpp hlen)
  | fetched _ h => exact classEffect_keeps_inv hb h
  | resumed j hj => exact absurd (hflow.symm.trans hj) nofun

theorem launchStep_keeps_inv {s t : State} (hinv : Inv s) (hrun : s.phase = .run) (h : LaunchStep s t) : Inv t := by
  have l := inv_live hinv hrun
  have hp : s.phase ≠ .fault := by rw [hrun]; nofun
  have he := inv_noError hinv hp
  cases h with
  | raised h => exact inv_of_raised h
  | signature hflow _ hlen => exact inv_of_live hp he (liveInv_signature l hrun hflow hlen)
  | endOfStream hflow hpos => exact inv_of_live nofun he (liveInv_endOfStream l hrun hflow hpos)
  | chunk i tag c hflow hpos hfits hi h =>
    exact chunkEffect_keeps_inv hflow (ready_latchChunk hinv hrun hflow hpos tag hfits) hi h
  | scanline i ft pred data bpp hflow hrow hbpp hlen =>
    exact inv_of_live hp he (liveInv_scanline l ft pred hflow hrow hbpp hlen)
  | resumed i hflow hrow h => exact classEffect_keeps_inv (ready_endFlush hinv hrun hflow hrow) h

/-- Settles O4: reset re-establishes the invariant, and a step of a launch and a host transaction each keep it. -/
theorem stepKeepsInvariant : Obligations.StepKeepsInvariant := by
  intro s t hinv h
  obtain ⟨rest, -, e⟩ | ⟨hrun, hq, -⟩ | ⟨op, rest, -, -, hop, e⟩ | ⟨-, -, e⟩ := step_begins s
  · rw [e] at h; cases h; exact inv_applyReset rest s
  · exact launchStep_keeps_inv hinv hrun (step_launchStep hinv hrun hq h)
  · rw [e] at h
    exact hostStep_keeps_inv (inv_withHost hinv rest s.replies) (hostAction_effect hop h)
  · rw [e] at h; cases h

end Sys2Proof.Proofs
end

section
/-! PROOF. What the registers keep: terminal phases, the immutable header, the growing `POS` and `PIXBUF`, the end of a launch by an
error (O9, O10, O11, O12, O55), and the two fixed readings of the state (O1, O51). -/

namespace Sys2Proof.Proofs

open Sys2Proof Sys2Proof.Machine Sys2Proof.Safety

/-- Settles O1: each value is the one R30 writes down. -/
theorem resetLeavesSpecValues : Obligations.ResetLeavesSpecValues := ⟨rfl, rfl, rfl, rfl, rfl, rfl, rfl, rfl⟩

/-- Settles O51: `BPP` is 3 or 4 by the colour type, and undefined for every other one. -/
theorem completeMeansWholeImage : Obligations.CompleteMeansWholeImage := by
  intro s
  rw [complete_iff]
  constructor
  · rintro ⟨bpp, hbpp, hdone, hseen, hdepth, hlen⟩
    refine ⟨hdone, hseen, hdepth, ?_⟩
    obtain ⟨hct, rfl⟩ | ⟨hct, rfl⟩ := bppOf_eq_some.mp hbpp
    · exact .inl ⟨hct, hlen⟩
    · exact .inr ⟨hct, hlen⟩
  · rintro ⟨hdone, hseen, hdepth, ⟨hct, hlen⟩ | ⟨hct, hlen⟩⟩
    · exact ⟨3, bppOf_eq_some.mpr (.inl ⟨hct, rfl⟩), hdone, hseen, hdepth, hlen⟩
    · exact ⟨4, bppOf_eq_some.mpr (.inr ⟨hct, rfl⟩), hdone, hseen, hdepth, hlen⟩

/-! ### Terminal phases -/

theorem hostStep_keeps_terminal {s t : State} (hs : s.phase = .done ∨ s.phase = .fault) (h : HostStep s t) :
    t.phase = s.phase ∧ t.err = s.err ∧ t.endCause = s.endCause := by
  cases h with
  | delivered r => exact ⟨rfl, rfl, rfl⟩
  | started p hidle => rcases hs with hs | hs <;> cases hidle.symm.trans hs
  | ioError p hidle => rcases hs with hs | hs <;> cases hidle.symm.trans hs
  | reversed => exact ⟨rfl, rfl, rfl⟩

/-- Settles O9: only the host acts there, and none of its operations but reset writes `PHASE`, `ERR` or `END`. -/
theorem doneAndFaultAreTerminal : Obligations.DoneAndFaultAreTerminal := by
  intro s t hs hq h
  obtain ⟨rest, hreset, -⟩ | ⟨hrun, -⟩ | ⟨op, rest, -, -, hop, e⟩ | ⟨-, -, e⟩ := step_begins s
  · exact absurd (by rw [hreset]; rfl) hq
  · rcases hs with hs | hs <;> cases hrun.symm.trans hs
  · rw [e] at h
    obtain ⟨hphase, herr, hend⟩ := hostStep_keeps_terminal (s := { s with hostQueue := rest }) hs (hostAction_effect hop h)
    exact ⟨hphase, herr, fun _ => hend⟩
  · rw [e] at h; cases h

/-! ### The header -/

/-- `t` has the accepted header of `s`, unless it is the state after an exception (R17, R31). -/
def KeepsHeader (s t : State) : Prop := t.phase ≠ .fault → t.hdr = s.hdr ∧ t.cps.ihdrSeen = true

theorem keepsHeader_of_raised {s t : State} (h : Raised t) : KeepsHeader s t := fun hp => absurd h.phase hp

theorem classEffect_keepsHeader {b t : State} (hseen : b.cps.ihdrSeen = true) (h : ClassEffect b t) :
    KeepsHeader b t := by
  cases h with
  | raised h => exact keepsHeader_of_raised h
  | header h hunseen => exact absurd (hseen.symm.trans hunseen) nofun
  | imageData | discarded | terminated => exact fun _ => ⟨rfl, hseen⟩

theorem chunkEffect_keepsHeader {i : Instr} {tag : Bytes4} {c : Chunk} {s t : State} (hseen : s.cps.ihdrSeen = true)
    (h : ChunkEffect i tag c s t) : KeepsHeader s t := by
  cases h with
  | raised h => exact keepsHeader_of_raised h
  | opened => exact fun _ => ⟨rfl, hseen⟩
  | fetched _ h => exact classEffect_keepsHeader (b := latchChunk tag c s) hseen h
  | resumed _ _ h => exact classEffect_keepsHeader (b := endFlush s) hseen h

theorem execRow_keepsHeader {ft : Byte} {pred : Predictor} {data : List Byte} {s t : State}
    (hseen : s.cps.ihdrSeen = true) (h : execRow ft pred data s = .next t) : KeepsHeader s t := by
  obtain ⟨bpp, -, rfl⟩ := execRow_next h
  exact fun _ => ⟨rfl, hseen⟩

theorem hostStep_keepsHeader {s t : State} (hseen : s.cps.ihdrSeen = true) (h : HostStep s t) : KeepsHeader s t := by
  cases h <;> exact fun _ => ⟨rfl, hseen⟩

/-- No instruction, in any state, writes an accepted header. -/
theorem exec_keepsHeader {i : Instr} {s t : State} (hseen : s.cps.ihdrSeen = true) (h : exec i s = .next t) :
    KeepsHeader s t := by
  cases i with
  | sig =>
    obtain hr | ⟨-, rfl⟩ := execSig_effect h
    · exact keepsHeader_of_raised hr
    · exact fun _ => ⟨rfl, hseen⟩
  | ihdr c => exact chunkEffect_keepsHeader hseen (exec_chunk_effect (.ihdr c) h)
  | idat c => exact chunkEffect_keepsHeader hseen (exec_chunk_effect (.idat c) h)
  | iccp c => exact chunkEffect_keepsHeader hseen (exec_chunk_effect (.iccp c) h)
  | iend c => exact chunkEffect_keepsHeader hseen (exec_chunk_effect (.iend c) h)
  | other tag c => exact chunkEffect_keepsHeader hseen (exec_chunk_effect (.other tag c) h)
  | ftNone | ftSub | ftUp | ftAverage | ftPaeth => exact execRow_keepsHeader hseen h
  | ftReserved ft data => cases h; exact keepsHeader_of_raised (raised_raise _ _)
  | start p => exact hostStep_keepsHeader hseen (execStart_effect h)
  | getHeader => exact hostStep_keepsHeader hseen (execGetHeader_effect h)
  | getImageData => exact hostStep_keepsHeader hseen (execGetImageData_effect h)
  | compareSize => exact hostStep_keepsHeader hseen (execCompareSize_effect h)
  | reverseImage => exact hostStep_keepsHeader hseen (execReverseImage_effect h)

/-- Settles O10: no instruction and no host transaction but reset writes an accepted header. -/
theorem headerIsImmutable : Obligations.HeaderIsImmutable := by
  intro s t hseen hq h
  obtain ⟨rest, hreset, -⟩ | ⟨-, -, e⟩ | ⟨op, rest, -, -, hop, e⟩ | ⟨-, -, e⟩ := step_begins s
  · exact absurd (by rw [hreset]; rfl) hq
  · rw [e] at h
    cases runAction_alike (fetchAlike_refl s) with
    | endOfStream _ _ _ e => rw [e] at h; cases h; exact fun _ => ⟨rfl, hseen⟩
    | fetched i _ e => rw [e] at h; exact exec_keepsHeader hseen h
    | truncated e => rw [e] at h; cases h; exact keepsHeader_of_raised (raised_raise _ _)
    | stopped r e => rw [e] at h; cases h
  · rw [e] at h
    exact hostStep_keepsHeader (s := { s with hostQueue := rest }) hseen (hostAction_effect hop h)
  · rw [e] at h; cases h

/-! ### The stream position and the pixels of a launch -/

/-- What every step of a launch that takes no exception leaves in place: the parameters, the position reached, the pixels
written. -/
structure Advances (s t : State) : Prop where
  launch : t.launch = s.launch
  pos : s.pos ≤ t.pos
  pixbuf : ∃ new, t.pixbuf = s.pixbuf ++ new

theorem advances_of_eq {s t : State} (hl : t.launch = s.launch) (hp : s.pos ≤ t.pos) (hpix : t.pixbuf = s.pixbuf) :
    Advances s t := ⟨hl, hp, [], by rw [hpix, List.append_nil]⟩

theorem classEffect_frame {b t : State} (h : ClassEffect b t) (hp : t.phase ≠ .fault) :
    t.launch = b.launch ∧ t.pos = b.pos ∧ t.pixbuf = b.pixbuf := by
  cases h with
  | raised h => exact absurd h.phase hp
  | header | imageData | discarded | terminated => exact ⟨rfl, rfl, rfl⟩

theorem chunkEffect_advances {i : Instr} {tag : Bytes4} {c : Chunk} {s t : State} (h : ChunkEffect i tag c s t)
    (hp : t.phase ≠ .fault) : Advances s t := by
  have hfetch : s.pos ≤ (latchChunk tag c s).pos := by rw [latchChunk_pos]; omega
  cases h with
  | raised h => exact absurd h.phase hp
  | opened => exact advances_of_eq rfl hfetch rfl
  | fetched _ h =>
    obtain ⟨hl, hpos, hpix⟩ := classEffect_frame h hp
    exact advances_of_eq hl (hfetch.trans_eq hpos.symm) hpix
  | resumed _ _ h =>
    obtain ⟨hl, hpos, hpix⟩ := classEffect_frame h hp
    exact advances_of_eq hl hpos.ge hpix

theorem launchStep_advances {s t : State} (h : LaunchStep s t) (hp : t.phase ≠ .fault) : Advances s t := by
  cases h with
  | raised h => exact absurd h.phase hp
  | signature _ hpos => exact advances_of_eq rfl (by rw [hpos]; exact Nat.zero_le _) rfl
  | endOfStream => exact advances_of_eq rfl le_rfl rfl
  | chunk _ _ _ _ _ _ _ h => exact chunkEffect_advances h hp
  | scanline _ _ pred data bpp =>
    obtain ⟨new, hnew, -⟩ := reconstructRow_extends bpp (strideOf s.hdr bpp) pred data s.pixbuf
    exact ⟨rfl, le_rfl, new, hnew⟩
  | resumed _ _ _ h =>
    obtain ⟨hl, hpos, hpix⟩ := classEffect_frame h hp
    exact advances_of_eq hl hpos.ge hpix

/-- Settles O11: the bound is the invariant's, kept by the step. -/
theorem positionOnlyIncreases : Obligations.PositionOnlyIncreases := by
  intro s t hinv hrun hq h hp
  obtain ⟨hlaunch, hpos, -⟩ := launchStep_advances (step_launchStep hinv hrun hq h) hp
  exact ⟨hpos, hlaunch, ((stepKeepsInvariant s t hinv h).live hp).pos_le⟩

/-- Settles O12: the pixels of a step are the old ones with some appended, none but by a scanline. -/
theorem pixelsAreOnlyAppended : Obligations.PixelsAreOnlyAppended := by
  intro s t hinv hrun hq h hp
  obtain ⟨-, -, new, hnew⟩ := launchStep_advances (step_launchStep hinv hrun hq h) hp
  rw [hnew]
  exact ⟨by rw [List.length_append]; exact Nat.le_add_right _ _, List.take_left⟩

/-! ### The end of a launch -/

theorem classEffect_not_idle {b t : State} (hb : b.phase ≠ .idle) (h : ClassEffect b t) : t.phase ≠ .idle := by
  cases h with
  | raised h => rw [h.phase]; nofun
  | header | imageData | discarded => exact hb
  | terminated => nofun

theorem chunkEffect_not_idle {i : Instr} {tag : Bytes4} {c : Chunk} {s t : State} (hs : s.phase ≠ .idle)
    (h : ChunkEffect i tag c s t) : t.phase ≠ .idle := by
  cases h with
  | raised h => rw [h.phase]; nofun
  | opened => exact hs
  | fetched _ h => exact classEffect_not_idle (b := latchChunk tag c s) hs h
  | resumed _ _ h => exact classEffect_not_idle (b := endFlush s) hs h

theorem launchStep_not_idle {s t : State} (hs : s.phase ≠ .idle) (h : LaunchStep s t) : t.phase ≠ .idle := by
  cases h with
  | raised h => rw [h.phase]; nofun
  | signature | scanline => exact hs
  | endOfStream => nofun
  | chunk _ _ _ _ _ _ _ h => exact chunkEffect_not_idle hs h
  | resumed _ _ _ h => exact classEffect_not_idle (b := endFlush s) hs h

/-- Settles O55: by the invariant after the step, `ERR` is set exactly in `FAULT`, and a launch never falls back to `IDLE`. -/
theorem errorsEndTheLaunch : Obligations.ErrorsEndTheLaunch := by
  intro s t hinv hrun hq h
  have hinv' : Inv t := stepKeepsInvariant s t hinv h
  have hidle : t.phase ≠ .idle := launchStep_not_idle (by rw [hrun]; nofun) (step_launchStep hinv hrun hq h)
  cases hp : t.phase with
  | idle => exact absurd hp hidle
  | run => exact .inl ⟨inv_noError hinv' (by rw [hp]; nofun), .inl rfl⟩
  | done => exact .inl ⟨inv_noError hinv' (by rw [hp]; nofun), .inr rfl⟩
  | fault => exact .inr ⟨hinv'.fault_err.mp hp, rfl⟩

end Sys2Proof.Proofs
end

section
/-! PROOF. Nothing depends on a register that nothing has written (O6). -/

namespace Sys2Proof.Proofs

open Sys2Proof Sys2Proof.Machine Sys2Proof.Safety

/-! ### Two states that agree but for unwritten registers -/

/-- `erase s = erase s'`, field by field. -/
structure Agree (s s' : State) : Prop where
  phase : s'.phase = s.phase
  endCause : s'.endCause = s.endCause
  err : s'.err = s.err
  pos : s'.pos = s.pos
  cps : s'.cps = s.cps
  idatbuf : s'.idatbuf = s.idatbuf
  zbuf : s'.zbuf = s.zbuf
  pixbuf : s'.pixbuf = s.pixbuf
  launch : s'.launch = s.launch
  flow : s'.flow = s.flow
  hostQueue : s'.hostQueue = s.hostQueue
  replies : s'.replies = s.replies
  hdr : s.cps.ihdrSeen = true → s'.hdr = s.hdr
  zidx : s.flow ≠ .between → s'.zidx = s.zidx
  oidx : s.flow ≠ .between → s'.oidx = s.oidx
  row : s.flow ≠ .between → s'.row = s.row

theorem agree_refl (s : State) : Agree s s := by constructor <;> intros <;> rfl

theorem agree_of_erase_eq {s s' : State} (h : erase s = erase s') : Agree s s' := by
  have hcps : s'.cps = s.cps := (congrArg State.cps h).symm
  have hflow : s'.flow = s.flow := (congrArg State.flow h).symm
  exact
    { phase := (congrArg State.phase h).symm
      endCause := (congrArg State.endCause h).symm
      err := (congrArg State.err h).symm
      pos := (congrArg State.pos h).symm
      cps := hcps
      idatbuf := (congrArg State.idatbuf h).symm
      zbuf := (congrArg State.zbuf h).symm
      pixbuf := (congrArg State.pixbuf h).symm
      launch := (congrArg State.launch h).symm
      flow := hflow
      hostQueue := (congrArg State.hostQueue h).symm
      replies := (congrArg State.replies h).symm
      hdr := fun hseen => by simpa [erase, hcps, hseen] using (congrArg State.hdr h).symm
      zidx := fun hf => by simpa [erase, hflow, hf] using (congrArg State.zidx h).symm
      oidx := fun hf => by simpa [erase, hflow, hf] using (congrArg State.oidx h).symm
      row := fun hf => by simpa [erase, hflow, hf] using (congrArg State.row h).symm }

theorem erase_eq_of_agree {s s' : State} (h : Agree s s') : erase s = erase s' := by
  have hhdr : (if s.cps.ihdrSeen then s'.hdr else State.reset.hdr) = if s.cps.ihdrSeen then s.hdr else State.reset.hdr :=
    ite_congr rfl h.hdr fun _ => rfl
  have hzidx : (if s.flow = .between then State.reset.zidx else s'.zidx) =
      if s.flow = .between then State.reset.zidx else s.zidx := ite_congr rfl (fun _ => rfl) h.zidx
  have hoidx : (if s.flow = .between then State.reset.oidx else s'.oidx) =
      if s.flow = .between then State.reset.oidx else s.oidx := ite_congr rfl (fun _ => rfl) h.oidx
  have hrow : (if s.flow = .between then State.reset.row else s'.row) =
      if s.flow = .between then State.reset.row else s.row := ite_congr rfl (fun _ => rfl) h.row
  simp only [erase, h.phase, h.endCause, h.err, h.pos, h.cps, h.idatbuf, h.zbuf, h.pixbuf, h.launch, h.flow,
    h.hostQueue, h.replies, hhdr, hzidx, hoidx, hrow]

theorem alikeErased_next {t t' : State} (h : Agree t t') : AlikeErased (.next t) (.next t') :=
  .inl ⟨t, t', rfl, rfl, erase_eq_of_agree h⟩

theorem alikeErased_raise (k : ErrKind) (s s' : State) : AlikeErased (.next (raise k s)) (.next (raise k s')) :=
  .inr (.inl ⟨k, ⟨_, rfl, rfl, rfl⟩, ⟨_, rfl, rfl, rfl⟩⟩)

theorem alikeErased_refused (x : Refusal) : AlikeErased (.refused x) (.refused x) := .inr (.inr ⟨x, rfl, rfl⟩)

theorem agree_latchChunk {s s' : State} (h : Agree s s') (tag : Bytes4) (c : Chunk) :
    Agree (latchChunk tag c s) (latchChunk tag c s') :=
  { h with pos := by rw [latchChunk_pos, latchChunk_pos, h.pos] }

theorem agree_endFlush {s s' : State} (h : Agree s s') : Agree (endFlush s) (endFlush s') :=
  { h with
    cps := by rw [endFlush_cps, endFlush_cps, h.cps]
    idatbuf := rfl
    zbuf := rfl
    flow := rfl
    zidx := fun hf => absurd rfl hf
    oidx := fun hf => absurd rfl hf
    row := fun hf => absurd rfl hf }

/-! ### The flush and the classes -/

theorem enterEngine_alike {s s' : State} (h : Agree s s') (hseen : s.cps.ihdrSeen = true) (i : Instr) :
    AlikeErased (enterEngine i s) (enterEngine i s') := by
  unfold enterEngine
  rw [h.hdr hseen, h.zbuf]
  cases hsup : supported s.hdr with
  | false => exact alikeErased_raise _ s s'
  | true =>
    obtain ⟨bpp, hbpp⟩ := bppOf_of_supported hsup
    rw [withBpp_some hbpp, withBpp_some hbpp]
    simp only [Bool.not_true, Bool.false_eq_true, if_false]
    split
    · exact alikeErased_raise _ s s'
    · exact alikeErased_next
        { h with
          hdr := fun _ => rfl
          zbuf := rfl
          flow := rfl
          zidx := fun _ => rfl
          oidx := fun _ => congrArg List.length h.pixbuf
          row := fun _ => rfl }

theorem beginFlush_alike {s s' : State} (h : Agree s s') (hseen : s.cps.ihdrSeen = true) (i : Instr) :
    AlikeErased (beginFlush i s) (beginFlush i s') := by
  unfold beginFlush
  have hinflate : inflate s'.launch.inflate s'.idatbuf = inflate s.launch.inflate s.idatbuf := by
    rw [h.launch, h.idatbuf]
  rw [hinflate]
  cases inflate s.launch.inflate s.idatbuf with
  | dataError => exact alikeErased_raise _ s s'
  | memoryError => exact alikeErased_raise _ s s'
  | ok z => exact enterEngine_alike (s := { s with zbuf := z }) (s' := { s' with zbuf := z }) { h with zbuf := rfl } hseen i

/-- A body that a chunk step runs: it may read `CLEN`, which the fetch wrote, while no header is accepted. -/
def BodyAlike (body : State → Result) : Prop :=
  ∀ b b' : State, Agree b b' → (b.cps.ihdrSeen = false → b'.clen = b.clen) → AlikeErased (body b) (body b')

theorem requireHeader_alike {body : State → Result}
    (hbody : ∀ b b' : State, Agree b b' → b.cps.ihdrSeen = true → AlikeErased (body b) (body b')) :
    BodyAlike (requireHeader body) := by
  intro b b' h _
  cases hseen : b.cps.ihdrSeen with
  | true =>
    rw [requireHeader_seen hseen, requireHeader_seen ((congrArg Cps.ihdrSeen h.cps).trans hseen)]
    exact hbody b b' h hseen
  | false =>
    rw [requireHeader_unseen hseen, requireHeader_unseen ((congrArg Cps.ihdrSeen h.cps).trans hseen)]
    exact alikeErased_raise _ b b'

theorem ihdrBody_alike (c : Chunk) : BodyAlike (ihdrBody c) := by
  intro b b' h hclen
  unfold ihdrBody acceptHeader
  rw [h.cps]
  cases hseen : b.cps.ihdrSeen with
  | true => exact alikeErased_next h
  | false =>
    rw [hclen hseen]
    simp only [Bool.false_eq_true, if_false]
    split
    · exact alikeErased_raise _ b b'
    split
    · exact alikeErased_raise _ _ _
    split
    · exact alikeErased_raise _ _ _
    · exact alikeErased_next { h with cps := rfl, hdr := fun _ => rfl }

theorem idatBody_alike (c : Chunk) {b b' : State} (h : Agree b b') (_ : b.cps.ihdrSeen = true) :
    AlikeErased (idatBody c b) (idatBody c b') :=
  alikeErased_next
    { h with
      idatbuf := congrArg (memAppend · c.payload) h.idatbuf
      cps := congrArg Cps.markIdat h.cps }

theorem iccpBody_alike {b b' : State} (h : Agree b b') (_ : b.cps.ihdrSeen = true) :
    AlikeErased (iccpBody b) (iccpBody b') := by
  unfold iccpBody
  rw [h.cps]
  split
  · exact alikeErased_raise _ b b'
  · exact alikeErased_next h

theorem iendBody_alike {b b' : State} (h : Agree b b') (_ : b.cps.ihdrSeen = true) :
    AlikeErased (iendBody b) (iendBody b') :=
  alikeErased_next { h with cps := congrArg Cps.markIend h.cps, endCause := rfl, phase := rfl }

theorem chunkStep_alike {i : Instr} {tag : Bytes4} {c : Chunk} {body : State → Result} {s s' : State}
    (hbody : BodyAlike body) (l : LiveInv s) (h : Agree s s') :
    AlikeErased (chunkStep i tag c body s) (chunkStep i tag c body s') := by
  cases hflow : s.flow with
  | flushing j =>
    rw [chunkStep_flushing hflow, chunkStep_flushing (h.flow.trans hflow)]
    obtain ⟨-, hseen⟩ := flush_pending l hflow
    exact hbody _ _ (agree_endFlush h) fun hunseen => absurd (hseen.symm.trans hunseen) nofun
  | between =>
    by_cases hend : s.cps.inRun = false ∨ tag = Config.tagIDAT
    · rw [chunkStep_body hflow hend, chunkStep_body (h.flow.trans hflow) (by rwa [h.cps])]
      exact hbody _ _ (agree_latchChunk h tag c) fun _ => rfl
    · obtain ⟨hrun, htag⟩ : s.cps.inRun = true ∧ tag ≠ Config.tagIDAT := by simpa using hend
      rw [chunkStep_runEnd hflow hrun htag, chunkStep_runEnd (h.flow.trans hflow) (by rwa [h.cps]) htag]
      have hseen : s.cps.ihdrSeen = true := ihdrSeen_of_inRun l hrun
      exact beginFlush_alike (agree_latchChunk h tag c) hseen i

theorem exec_chunk_alike {i : Instr} {tag : Bytes4} {c : Chunk} {s s' : State} (hi : IsChunk i tag c) (l : LiveInv s)
    (h : Agree s s') : AlikeErased (exec i s) (exec i s') := by
  cases hi with
  | ihdr => exact chunkStep_alike (ihdrBody_alike c) l h
  | idat => exact chunkStep_alike (requireHeader_alike fun _ _ => idatBody_alike c) l h
  | iccp => exact chunkStep_alike (requireHeader_alike fun _ _ => iccpBody_alike) l h
  | iend => exact chunkStep_alike (requireHeader_alike fun _ _ => iendBody_alike) l h
  | other => exact chunkStep_alike (requireHeader_alike fun _ _ h _ => alikeErased_next h) l h

/-! ### The signature and the scanlines -/

theorem execSig_alike {s s' : State} (h : Agree s s') : AlikeErased (execSig s) (execSig s') := by
  unfold execSig
  rw [h.launch]
  split
  · exact alikeErased_raise _ s s'
  split
  · exact alikeErased_raise _ s s'
  · exact alikeErased_next { h with pos := rfl, launch := rfl }

theorem execRow_alike {s s' : State} (h : Agree s s') {pending : Instr} (hflow : s.flow = .flushing pending)
    (hseen : s.cps.ihdrSeen = true) {bpp : Nat} (hbpp : bppOf s.hdr.colorType = some bpp) (ft : Byte) (pred : Predictor)
    (data : List Byte) : AlikeErased (execRow ft pred data s) (execRow ft pred data s') := by
  have hf : s.flow ≠ .between := by rw [hflow]; nofun
  rw [execRow_eq hbpp, execRow_eq (s := s') (by rwa [h.hdr hseen])]
  refine alikeErased_next { h with pixbuf := ?_, zidx := fun _ => ?_, oidx := fun _ => ?_, row := fun _ => ?_ }
  · simp only [h.hdr hseen, h.pixbuf]
  · simp only [h.zidx hf]
  · simp only [h.pixbuf]
  · simp only [h.row hf]

/-! ### A launch -/

theorem agree_fetchAlike {s s' : State} (l : LiveInv s) (h : Agree s s') : FetchAlike s s' :=
  have hhdr : s.flow ≠ .between → s'.hdr = s.hdr := fun hf => by
    cases hflow : s.flow with
    | between => exact absurd hflow hf
    | flushing i => exact h.hdr (flush_pending l hflow).2
  { h with
    width := fun hf => congrArg ImageHeader.width (hhdr hf)
    height := fun hf => congrArg ImageHeader.height (hhdr hf)
    colorType := fun hf => congrArg ImageHeader.colorType (hhdr hf) }

theorem exec_fetched_alike {s s' : State} {i : Instr} (l : LiveInv s) (h : Agree s s') (hi : Fetches s i) :
    AlikeErased (exec i s) (exec i s') := by
  cases hi with
  | sig => exact execSig_alike h
  | chunk tag c => exact exec_chunk_alike (isChunk_chunkClass _ tag c) l h
  | scanline ftype data pending bpp hflow hrow hbpp hlen =>
    obtain he | ⟨ft, pred, he⟩ := exec_scanlineClass ftype data
    · rw [he, he]; exact alikeErased_raise _ _ _
    · rw [he, he]
      exact execRow_alike h hflow (flush_pending l hflow).2 hbpp ft pred data
  | pending _ hflow hrow =>
    obtain ⟨⟨tag, c, hc⟩, -⟩ := flush_pending l hflow
    exact exec_chunk_alike hc l h

/-- The bytes of a scanline are there to be decoded when there are enough of them (R76). -/
theorem decode_scanline_of_length {n : Nat} {bs : List Byte} (h : 1 + n ≤ bs.length) :
    ∃ p, decode (.scanline n) bs = .ok p := by
  cases bs with
  | nil => simp at h
  | cons ft body =>
    have hn : ¬ body.length < n := by rw [List.length_cons] at h; omega
    exact ⟨_, by rw [decode, decodeScanline, if_neg hn]⟩

/-- From a state of the invariant the fetch never stops: `BPP` is defined and `ZBUF` holds the scanline at `ROW` (R20, R53). -/
theorem runAction_ne_fault {s : State} (l : LiveInv s) (r : Fault) : runAction s ≠ .answer (.fault r) := by
  intro e
  cases hflow : s.flow with
  | between =>
    rw [runAction_between hflow, chunkAction] at e
    split at e
    · cases e
    split at e
    · cases e
    split at e <;> cases e
  | flushing i =>
    obtain ⟨-, -, bpp, _, hflush⟩ := l.flush i hflow
    rw [runAction_flushing hflow, flushAction, hflush.bpp_defined] at e
    split at e
    · next hrow =>
      obtain ⟨p, hp⟩ : ∃ p, decode (.scanline (strideOf s.hdr bpp)) (s.zbuf.drop s.zidx) = .ok p := by
        have hle : (s.row + 1) * rowBytesOf s.hdr bpp ≤ s.hdr.height.toNat * rowBytesOf s.hdr bpp :=
          Nat.mul_le_mul_right _ hrow
        rw [Nat.succ_mul] at hle
        refine decode_scanline_of_length ?_
        rw [List.length_drop, hflush.zbuf_length, hflush.zidx_at_row]
        exact Nat.le_sub_of_add_le' hle
      simp only [hp] at e
      cases e
    · cases e

theorem runAction_result_alike {s s' : State} (l : LiveInv s) (h : Agree s s') :
    AlikeErased (Action.result (runAction s)) (Action.result (runAction s')) := by
  cases runAction_alike (agree_fetchAlike l h) with
  | endOfStream _ _ _ e e' =>
    rw [e, e']; exact alikeErased_next { h with endCause := rfl, phase := rfl }
  | fetched i hi e e' => rw [e, e']; exact exec_fetched_alike l h hi
  | truncated e e' => rw [e, e']; exact alikeErased_raise _ _ _
  | stopped r e => exact absurd e (runAction_ne_fault l r)

/-! ### The host -/

theorem deliver_alike {s s' : State} (h : Agree s s') {r r' : HostReply} (hr : r' = r) :
    AlikeErased (.next (deliver r s)) (.next (deliver r' s')) :=
  alikeErased_next { h with replies := by rw [deliver_replies, deliver_replies, h.replies, hr] }

theorem whenDone_alike {s s' : State} (h : Agree s s') {k : State → Result} (hk : AlikeErased (k s) (k s')) :
    AlikeErased (whenDone k s) (whenDone k s') := by
  unfold whenDone
  rw [h.phase]
  split
  · exact hk
  · exact alikeErased_refused _

theorem whenHeader_alike {s s' : State} (h : Agree s s') {k : ImageHeader → State → Result}
    (hk : AlikeErased (k s.hdr s) (k s.hdr s')) : AlikeErased (whenHeader k s) (whenHeader k s') := by
  unfold whenHeader State.hdrValid
  rw [h.cps]
  split
  · next hseen => rwa [h.hdr hseen]
  · exact alikeErased_refused _

theorem complete_of_agree {s s' : State} (h : Agree s s') (hseen : s.cps.ihdrSeen = true) : s'.complete = s.complete := by
  simp only [State.complete, State.hdrValid, h.hdr hseen, h.phase, h.cps, h.pixbuf]

theorem ihdrSeen_of_complete {s : State} (hc : s.complete = true) : s.cps.ihdrSeen = true := by
  obtain ⟨_, -, -, hseen, -⟩ := complete_iff.mp hc
  exact hseen

theorem reverseImage_alike {s s' : State} (h : Agree s s') :
    AlikeErased (execReverseImage s) (execReverseImage s') := by
  refine whenDone_alike h ?_
  cases hseen : s.cps.ihdrSeen with
  | true =>
    rw [complete_of_agree h hseen, h.hdr hseen, h.pixbuf]
    split
    · exact alikeErased_next { h with hdr := fun _ => rfl, pixbuf := rfl }
    · exact alikeErased_refused _
  | false =>
    have hc : s.complete ≠ true := fun hc => absurd ((ihdrSeen_of_complete hc).symm.trans hseen) nofun
    have hc' : s'.complete ≠ true := fun hc =>
      absurd ((ihdrSeen_of_complete hc).symm.trans ((congrArg Cps.ihdrSeen h.cps).trans hseen)) nofun
    rw [if_neg fun hk => hc hk.1, if_neg fun hk => hc' hk.1]
    exact alikeErased_refused _

theorem execStart_alike {s s' : State} (h : Agree s s') (p : LaunchParams) :
    AlikeErased (execStart p s) (execStart p s') := by
  unfold execStart
  rw [h.phase]
  split
  · exact alikeErased_refused _
  split
  · exact alikeErased_raise _ _ _
  · exact alikeErased_next { h with launch := rfl, phase := rfl }

theorem hostAction_alike {s s' : State} (h : Agree s s') {op : HostOp} (hop : op ≠ .reset) :
    AlikeErased (Action.result (hostAction op s)) (Action.result (hostAction op s')) := by
  cases op with
  | reset => exact absurd rfl hop
  | start p => exact execStart_alike h p
  | getHeader => exact whenDone_alike h (whenHeader_alike h (deliver_alike h rfl))
  | getImageData =>
    exact whenDone_alike (k := fun s => .next (deliver (.imageData s.pixbuf) s)) h
      (deliver_alike h (congrArg HostReply.imageData h.pixbuf))
  | compareSize w ht => exact whenDone_alike h (whenHeader_alike h (deliver_alike h rfl))
  | reverseImage => exact reverseImage_alike h
  | readPhase => exact deliver_alike h (congrArg HostReply.phase h.phase)
  | readErr => exact deliver_alike h (congrArg HostReply.err h.err)
  | readEnd =>
    simp only [hostAction, Action.result, readEnd, h.phase]
    split
    · exact alikeErased_refused _
    · exact deliver_alike h (congrArg HostReply.endCause h.endCause)
  | readCps =>
    simp only [hostAction, Action.result, readCps, h.phase]
    split
    · exact alikeErased_refused _
    · exact deliver_alike h (congrArg HostReply.cps h.cps)

/-- Settles O6: the step begins alike, and each action reads of the hidden registers none that `Agree` leaves open. -/
theorem unwrittenRegistersAreNeverRead : Obligations.UnwrittenRegistersAreNeverRead := by
  intro s s' hinv he
  have h := agree_of_erase_eq he
  obtain ⟨rest, hq, e⟩ | ⟨hrun, hq, e⟩ | ⟨op, rest, hrun, hq, hop, e⟩ | ⟨hrun, hq, e⟩ := step_begins s
  · have hs : applyReset rest s' = applyReset rest s := by rw [applyReset, applyReset, h.replies]
    rw [e, step_reset (h.hostQueue.trans hq), hs]
    exact alikeErased_next (agree_refl _)
  · rw [e, step_launch (h.phase.trans hrun) (by rwa [NoReset, h.hostQueue])]
    exact runAction_result_alike (inv_live hinv hrun) h
  · rw [e, step_host (by rwa [h.phase]) (h.hostQueue.trans hq) hop]
    exact hostAction_alike (s := { s with hostQueue := rest }) (s' := { s' with hostQueue := rest })
      { h with hostQueue := rfl } hop
  · rw [e, step_no_transaction (by rwa [h.phase]) (h.hostQueue.trans hq)]
    exact alikeErased_refused _

end Sys2Proof.Proofs
end

section
/-! PROOF. The three method bytes of the header take no part in a launch (O13). -/

namespace Sys2Proof.Proofs

open Sys2Proof Sys2Proof.Machine Sys2Proof.Safety

/-- An outcome with its next state changed. -/
def onNext (g : State → State) : Result → Result
  | .next t => .next (g t)
  | .fault r => .fault r
  | .refused r => .refused r

/-- From `s`, `op` does the same whatever the three method bytes are, and carries them along (R18). -/
def MethodBlind (op : State → Result) (s : State) : Prop :=
  ∀ x y z : Byte, op (withMethods x y z s) = onNext (withMethods x y z) (op s)

/-- A test that does not see the change, with branches that carry it along. -/
theorem ite_onNext {p q : Prop} [Decidable p] [Decidable q] {g : State → State} {r₁ r₂ r₁' r₂' : Result} (hpq : q = p)
    (h₁ : r₁' = onNext g r₁) (h₂ : r₂' = onNext g r₂) :
    (if q then r₁' else r₂') = onNext g (if p then r₁ else r₂) := by
  rw [apply_ite (onNext g)]
  exact ite_congr hpq (fun _ => h₁) fun _ => h₂

/-! ### The tests and effects of a launch: each reads other fields of the header than the three -/

theorem withBpp_onNext {h h' : ImageHeader} {k k' : Nat → Result} {g : State → State} (hct : h'.colorType = h.colorType)
    (hk : ∀ bpp, k' bpp = onNext g (k bpp)) : withBpp h' k' = onNext g (withBpp h k) := by
  unfold withBpp
  rw [hct]
  cases bppOf h.colorType with
  | none => rfl
  | some bpp => exact hk bpp

theorem enterEngine_methodBlind (i : Instr) (s : State) : MethodBlind (enterEngine i) s := fun _ _ _ =>
  ite_onNext rfl rfl (withBpp_onNext rfl fun _ => ite_onNext rfl rfl rfl)

theorem beginFlush_methodBlind (i : Instr) (s : State) : MethodBlind (beginFlush i) s := by
  intro x y z
  have hinflate : inflate (withMethods x y z s).launch.inflate (withMethods x y z s).idatbuf =
      inflate s.launch.inflate s.idatbuf := rfl
  unfold beginFlush
  rw [hinflate]
  cases inflate s.launch.inflate s.idatbuf with
  | dataError => rfl
  | memoryError => rfl
  | ok z' => exact enterEngine_methodBlind i { s with zbuf := z' } x y z

theorem requireHeader_methodBlind {body : State → Result} {b : State} (h : MethodBlind body b) :
    MethodBlind (requireHeader body) b := fun x y z => ite_onNext rfl (h x y z) rfl

/-- Once a header is accepted an `IHDR` is discarded, so that none is written over the three bytes (R17). -/
theorem ihdrBody_methodBlind (c : Chunk) {b : State} (hseen : b.cps.ihdrSeen = true) : MethodBlind (ihdrBody c) b := by
  intro x y z
  have hseen' : (withMethods x y z b).cps.ihdrSeen = true := hseen
  rw [ihdrBody, ihdrBody, if_pos hseen, if_pos hseen']; rfl

theorem iccpBody_methodBlind (b : State) : MethodBlind iccpBody b := fun _ _ _ => ite_onNext rfl rfl rfl

theorem chunkStep_methodBlind {i : Instr} {tag : Bytes4} {c : Chunk} {body : State → Result} {s : State}
    (hbody : ∀ b : State, b.cps.ihdrSeen = true → MethodBlind body b) (hseen : s.cps.ihdrSeen = true) :
    MethodBlind (chunkStep i tag c body) s := by
  intro x y z
  cases hflow : s.flow with
  | flushing j =>
    rw [chunkStep_flushing hflow, chunkStep_flushing (s := withMethods x y z s) hflow]
    exact hbody (endFlush s) hseen x y z
  | between =>
    by_cases hend : s.cps.inRun = false ∨ tag = Config.tagIDAT
    · rw [chunkStep_body hflow hend, chunkStep_body (s := withMethods x y z s) hflow hend]
      exact hbody (latchChunk tag c s) hseen x y z
    · obtain ⟨hrun, htag⟩ : s.cps.inRun = true ∧ tag ≠ Config.tagIDAT := by simpa using hend
      rw [chunkStep_runEnd hflow hrun htag, chunkStep_runEnd (s := withMethods x y z s) hflow hrun htag]
      exact beginFlush_methodBlind i (latchChunk tag c s) x y z

theorem execSig_methodBlind (s : State) : MethodBlind execSig s := fun _ _ _ =>
  ite_onNext rfl rfl (ite_onNext rfl rfl rfl)

theorem execRow_methodBlind (ft : Byte) (pred : Predictor) (data : List Byte) (s : State) :
    MethodBlind (execRow ft pred data) s := fun _ _ _ => withBpp_onNext rfl fun _ => rfl

/-- The gate of the host's result operations is closed in a launch (R191). -/
theorem whenDone_refused {k : State → Result} {s : State} (hrun : s.phase = .run) :
    whenDone k s = .refused .resultUnavailable := by simp [whenDone, hrun]

theorem whenDone_methodBlind {k : State → Result} {s : State} (hrun : s.phase = .run) : MethodBlind (whenDone k) s :=
  fun x y z => by rw [whenDone_refused hrun, whenDone_refused (s := withMethods x y z s) hrun]; rfl

/-- Every instruction, in a launch with an accepted header. -/
theorem exec_methodBlind (i : Instr) {s : State} (hrun : s.phase = .run) (hseen : s.cps.ihdrSeen = true) :
    MethodBlind (exec i) s := by
  cases i with
  | sig => exact execSig_methodBlind s
  | ihdr c => exact chunkStep_methodBlind (fun _ => ihdrBody_methodBlind c) hseen
  | idat c => exact chunkStep_methodBlind (fun _ _ => requireHeader_methodBlind fun _ _ _ => rfl) hseen
  | iccp c => exact chunkStep_methodBlind (fun b _ => requireHeader_methodBlind (iccpBody_methodBlind b)) hseen
  | iend c => exact chunkStep_methodBlind (fun _ _ => requireHeader_methodBlind fun _ _ _ => rfl) hseen
  | other tag c => exact chunkStep_methodBlind (fun _ _ => requireHeader_methodBlind fun _ _ _ => rfl) hseen
  | ftNone data => exact execRow_methodBlind 0 predNone data s
  | ftSub data => exact execRow_methodBlind 1 predSub data s
  | ftUp data => exact execRow_methodBlind 2 predUp data s
  | ftAverage data => exact execRow_methodBlind 3 predAverage data s
  | ftPaeth data => exact execRow_methodBlind 4 predPaeth data s
  | ftReserved ft data => exact fun _ _ _ => rfl
  | start p => exact fun _ _ _ => ite_onNext rfl rfl (ite_onNext rfl rfl rfl)
  | getHeader | getImageData | compareSize | reverseImage => exact whenDone_methodBlind hrun

theorem withMethods_fetchAlike (x y z : Byte) (s : State) : FetchAlike s (withMethods x y z s) := by
  constructor <;> intros <;> rfl

/-- A step of a launch with an accepted header carries the three bytes along. -/
theorem step_methodBlind {s : State} (hrun : s.phase = .run) (hq : NoReset s) (hseen : s.cps.ihdrSeen = true) :
    MethodBlind step s := by
  intro x y z
  rw [step_launch hrun hq, step_launch (s := withMethods x y z s) hrun hq]
  cases runAction_alike (withMethods_fetchAlike x y z s) with
  | endOfStream _ _ _ e e' => rw [e, e']; rfl
  | fetched i _ e e' => rw [e, e']; exact exec_methodBlind i hrun hseen x y z
  | truncated e e' => rw [e, e']; rfl
  | stopped r e e' => rw [e, e']; rfl

/-- Settles O13: the two outcomes are not only alike but equal. -/
theorem methodBytesNeverMatter : Obligations.MethodBytesNeverMatter := by
  intro s x y z hrun hq hseen
  refine .inl ((step_methodBlind hrun hq hseen x y z).trans ?_)
  cases step s <;> rfl

end Sys2Proof.Proofs
end

section
/-! PROOF. No run from the invariant ends in a fault of the model (O5). -/

namespace Sys2Proof.Proofs

open Sys2Proof Sys2Proof.Machine Sys2Proof.Safety

/-- The outcomes that `AlikeErased` relates are next states and refusals; no fault of the model is among them. -/
theorem alikeErased_ne_fault {r r' : Result} (h : AlikeErased r r') (x : Fault) : r ≠ .fault x := by
  obtain ⟨t, -, rfl, -, -⟩ | ⟨_, ⟨t, rfl, -, -⟩, -⟩ | ⟨y, rfl, -⟩ := h <;> nofun

/-- A step from the invariant is alike to itself, so it is no fault: the cases that could stop it, the scanline fetch and an
undefined `BPP`, are ruled out where O6 is proved (`runAction_ne_fault`, `bppOf_of_supported`, `FlushInv.bpp_defined`). -/
theorem step_ne_fault {s : State} (hinv : Inv s) (x : Fault) : step s ≠ .fault x :=
  alikeErased_ne_fault (unwrittenRegistersAreNeverRead s s hinv rfl) x

theorem run_succ_of_next {M : Host.Core} {s t : M.State} (h : M.step s = .next t) (n : Nat) :
    M.run (n + 1) s = M.run n t := by rw [Host.Core.run, h]

theorem run_succ_of_refused {M : Host.Core} {s : M.State} {y : M.Refusal} (h : M.step s = .refused y) (n : Nat) :
    M.run (n + 1) s = .refused y := by rw [Host.Core.run, h]

/-- Settles O5, by induction on the number of steps: the first step is no fault, and the state it leads to is in the invariant
again (O4). -/
theorem invariantRunsNeverFault : Obligations.InvariantRunsNeverFault := by
  intro s hinv n x
  induction n generalizing s with
  | zero => nofun
  | succ n ih =>
    cases hstep : step s with
    | next t => rw [run_succ_of_next (M := core) hstep]; exact ih t (stepKeepsInvariant s t hinv hstep)
    | fault y => exact absurd hstep (step_ne_fault hinv y)
    | refused y => rw [run_succ_of_refused (M := core) hstep]; nofun

end Sys2Proof.Proofs
end

section
/-! PROOF. The encodings: decoder and encoder are inverse to each other (O14, O15), the class of a chunk (O16) and of a
scanline (O17) from its bytes, sample words (O18), and the signature check (O26). -/

namespace Sys2Proof.Proofs

open Sys2Proof Sys2Proof.Machine Sys2Proof.Safety

/-! ### Chunks: what `chunkClass` gives is exactly what is well-formed and fits -/

theorem IsChunk.encode_eq {i : Instr} {tag : Bytes4} {c : Chunk} (h : IsChunk i tag c) :
    encode i = some (chunkBytes tag c) := by
  cases h <;> rfl

theorem isChunk_of_fits {seen : Bool} {i : Instr} (h : i.fits (.chunk seen) = true) : ∃ tag c, IsChunk i tag c := by
  cases i with
  | ihdr c => exact ⟨_, c, .ihdr c⟩
  | idat c => exact ⟨_, c, .idat c⟩
  | iccp c => exact ⟨_, c, .iccp c⟩
  | iend c => exact ⟨_, c, .iend c⟩
  | other tag c => exact ⟨tag, c, .other tag c⟩
  | _ => exact absurd h Bool.false_ne_true

theorem isOther_iff {tag : Bytes4} :
    tag.isOther = true ↔ tag ≠ Config.tagIDAT ∧ tag ≠ Config.tagICCP ∧ tag ≠ Config.tagIEND := by
  simp [Bytes4.isOther, and_assoc]

theorem chunkClass_wf (seen : Bool) (tag : Bytes4) {c : Chunk} (hc : c.wf = true) :
    (chunkClass seen tag c).wf = true := by
  unfold chunkClass
  split
  · exact hc
  split
  · exact hc
  next hidat =>
  split
  · exact hc
  next hiccp =>
  split
  · exact hc
  next hiend =>
  have hother : tag.isOther = true :=
    isOther_iff.mpr ⟨mt beq_iff_eq.mpr hidat, mt beq_iff_eq.mpr hiccp, mt beq_iff_eq.mpr hiend⟩
  simp [Instr.wf, hother, hc]

theorem chunkClass_fits (seen : Bool) (tag : Bytes4) (c : Chunk) :
    (chunkClass seen tag c).fits (.chunk seen) = true := by
  unfold chunkClass
  split
  · next h => simpa [Instr.fits] using And.left (Bool.and_eq_true_iff.mp h)
  next hihdr =>
  split
  · rfl
  split
  · rfl
  split
  · rfl
  · cases seen with
    | true => rfl
    | false => simpa [Instr.fits] using hihdr

/-- The tests of R73 lead a well-formed chunk instruction that fits to its own class. -/
theorem IsChunk.eq_chunkClass {seen : Bool} {i : Instr} {tag : Bytes4} {c : Chunk} (h : IsChunk i tag c)
    (hwf : i.wf = true) (hfits : i.fits (.chunk seen) = true) : c.wf = true ∧ i = chunkClass seen tag c := by
  cases h with
  | ihdr =>
    obtain rfl : seen = false := by simpa [Instr.fits] using hfits
    exact ⟨hwf, rfl⟩
  | idat => exact ⟨hwf, by cases seen <;> rfl⟩
  | iccp => exact ⟨hwf, by cases seen <;> rfl⟩
  | iend => exact ⟨hwf, by cases seen <;> rfl⟩
  | other =>
    obtain ⟨hother, hc⟩ := Bool.and_eq_true_iff.mp hwf
    obtain ⟨hidat, hiccp, hiend⟩ := isOther_iff.mp hother
    have hihdr : ¬ (seen = false ∧ tag = Config.tagIHDR) := by
      rintro ⟨rfl, rfl⟩; exact absurd hfits Bool.false_ne_true
    exact ⟨hc, by simp [chunkClass, hihdr, hidat, hiccp, hiend]⟩

/-! ### Scanlines, in the same way -/

/-- `i` is a scanline instruction with that filter type and those filtered bytes (R76, R77). -/
inductive IsScanline : Instr → Byte → List Byte → Prop
  | ftNone (d : List Byte) : IsScanline (.ftNone d) 0 d
  | ftSub (d : List Byte) : IsScanline (.ftSub d) 1 d
  | ftUp (d : List Byte) : IsScanline (.ftUp d) 2 d
  | ftAverage (d : List Byte) : IsScanline (.ftAverage d) 3 d
  | ftPaeth (d : List Byte) : IsScanline (.ftPaeth d) 4 d
  | ftReserved (ft : Byte) (d : List Byte) : IsScanline (.ftReserved ft d) ft d

theorem IsScanline.encode_eq {i : Instr} {ft : Byte} {d : List Byte} (h : IsScanline i ft d) :
    encode i = some (ft :: d) := by
  cases h <;> rfl

theorem IsScanline.fits_iff {n : Nat} {i : Instr} {ft : Byte} {d : List Byte} (h : IsScanline i ft d) :
    i.fits (.scanline n) = true ↔ d.length = n := by
  cases h <;> exact beq_iff_eq

theorem isScanline_of_fits {n : Nat} {i : Instr} (h : i.fits (.scanline n) = true) : ∃ ft d, IsScanline i ft d := by
  cases i with
  | ftNone d => exact ⟨_, d, .ftNone d⟩
  | ftSub d => exact ⟨_, d, .ftSub d⟩
  | ftUp d => exact ⟨_, d, .ftUp d⟩
  | ftAverage d => exact ⟨_, d, .ftAverage d⟩
  | ftPaeth d => exact ⟨_, d, .ftPaeth d⟩
  | ftReserved ft d => exact ⟨ft, d, .ftReserved ft d⟩
  | _ => exact absurd h Bool.false_ne_true

/-- The predictor a filter type selects, by its number (R77). -/
theorem scanlineClass_eq_byNumber (ft : Byte) (d : List Byte) :
    scanlineClass ft d =
      if ft.toNat = 0 then .ftNone d
      else if ft.toNat = 1 then .ftSub d
      else if ft.toNat = 2 then .ftUp d
      else if ft.toNat = 3 then .ftAverage d
      else if ft.toNat = 4 then .ftPaeth d
      else .ftReserved ft d := by
  simp [scanlineClass, BitVec.toNat_eq]

/-- The class of a filter type carries that filter type, and is `FT_RESERVED` only above 4 (R77, R81). -/
theorem scanlineClass_spec (ft : Byte) (d : List Byte) :
    IsScanline (scanlineClass ft d) ft d ∧ (scanlineClass ft d).wf = true := by
  rw [scanlineClass_eq_byNumber]
  split
  · next h => obtain rfl : ft = 0 := BitVec.eq_of_toNat_eq h; exact ⟨.ftNone d, rfl⟩
  split
  · next h => obtain rfl : ft = 1 := BitVec.eq_of_toNat_eq h; exact ⟨.ftSub d, rfl⟩
  split
  · next h => obtain rfl : ft = 2 := BitVec.eq_of_toNat_eq h; exact ⟨.ftUp d, rfl⟩
  split
  · next h => obtain rfl : ft = 3 := BitVec.eq_of_toNat_eq h; exact ⟨.ftAverage d, rfl⟩
  split
  · next h => obtain rfl : ft = 4 := BitVec.eq_of_toNat_eq h; exact ⟨.ftPaeth d, rfl⟩
  · exact ⟨.ftReserved ft d, decide_eq_true (by omega)⟩

/-- The tests of R77 lead a well-formed scanline instruction to its own class. -/
theorem IsScanline.eq_scanlineClass {i : Instr} {ft : Byte} {d : List Byte} (h : IsScanline i ft d)
    (hwf : i.wf = true) : i = scanlineClass ft d := by
  cases h with
  | ftReserved =>
    have hft : 4 < ft.toNat := of_decide_eq_true hwf
    rw [scanlineClass_eq_byNumber, if_neg (by omega), if_neg (by omega), if_neg (by omega), if_neg (by omega),
      if_neg (by omega)]
  | _ => rfl

/-! ### The signature -/

/-- What `decodeSig` accepts, said once. -/
theorem decodeSig_ok_iff {bs rest : List Byte} {i : Instr} :
    decodeSig bs = .ok (i, rest) ↔ i = .sig ∧ bs = Config.signature ++ rest := by
  constructor
  · intro h
    unfold decodeSig at h
    split at h
    · cases h
    split at h
    · next htake =>
      cases h
      exact ⟨rfl, by rw [← beq_iff_eq.mp htake, List.take_append_drop]⟩
    · cases h
  · rintro ⟨rfl, rfl⟩
    simp [decodeSig, Config.signature]

theorem eq_sig_of_fits {i : Instr} (h : i.fits .sig = true) : i = .sig := by
  cases i with
  | sig => rfl
  | _ => exact absurd h Bool.false_ne_true

/-- A stream of fewer than eight bytes is no signature (D4). -/
theorem take_ne_signature_of_short {bs : List Byte} (hshort : bs.length < 8) : bs.take 8 ≠ Config.signature := by
  intro h
  have hlen : (bs.take 8).length = 8 := congrArg List.length h
  rw [List.length_take] at hlen; omega

/-- The signature check is the comparison of the first eight bytes of `IN` (R100, R212). -/
theorem execSig_eq (s : State) :
    execSig s = if s.launch.input.take 8 = Config.signature then .next { s with pos := 8 }
      else .next (raise .invalidSignature s) := by
  unfold execSig
  split
  · next hshort => rw [if_neg (take_ne_signature_of_short hshort)]
  · simp only [memRead, List.drop_zero, ne_eq, ite_not]

/-! ### The obligations -/

/-- Settles O14: for each format, the encoding is laid out as its decoder reads it, and the class tests find the instruction
again. -/
theorem decodeOfEncode : Obligations.DecodeOfEncode := by
  intro f i bs rest hwf hfits henc
  cases f with
  | sig =>
    obtain rfl := eq_sig_of_fits hfits
    cases henc
    exact decodeSig_ok_iff.mpr ⟨rfl, rfl⟩
  | chunk seen =>
    obtain ⟨tag, c, hi⟩ := isChunk_of_fits hfits
    obtain ⟨hc, hclass⟩ := hi.eq_chunkClass hwf hfits
    obtain rfl : chunkBytes tag c = bs := Option.some.inj (hi.encode_eq.symm.trans henc)
    rw [hclass]
    exact decodeChunk_chunkBytes seen tag hc rest
  | scanline n =>
    obtain ⟨ft, d, hi⟩ := isScanline_of_fits hfits
    obtain rfl : d.length = n := hi.fits_iff.mp hfits
    obtain rfl : ft :: d = bs := Option.some.inj (hi.encode_eq.symm.trans henc)
    rw [hi.eq_scanlineClass hwf]
    exact decodeScanline_cons ft d rest

/-- Settles O15: for each format, what its decoder accepts is the class of the fields it read, and that class is well-formed,
fits and is encoded as those fields. -/
theorem encodeOfDecode : Obligations.EncodeOfDecode := by
  intro f i bs rest hdec
  cases f with
  | sig =>
    obtain ⟨rfl, rfl⟩ := decodeSig_ok_iff.mp hdec
    exact ⟨rfl, rfl, _, rfl, rfl⟩
  | chunk seen =>
    obtain ⟨tag, c, hc, rfl, rfl⟩ := decodeChunk_ok hdec
    exact ⟨chunkClass_wf seen tag hc, chunkClass_fits seen tag c, _, (isChunk_chunkClass seen tag c).encode_eq, rfl⟩
  | scanline n =>
    obtain ⟨ft, d, hlen, rfl, rfl⟩ := decodeScanline_ok hdec
    obtain ⟨hscan, hwf⟩ := scanlineClass_spec ft d
    exact ⟨hwf, hscan.fits_iff.mpr hlen, _, hscan.encode_eq, rfl⟩

/-- Settles O16: the bytes are those of the chunk with that tag, payload and trailer, and the tests of `chunkClass` compare the
four tag bytes. -/
theorem chunkClassByTagAndHeaderSeen : Obligations.ChunkClassByTagAndHeaderSeen := by
  intro seen l0 l1 l2 l3 t0 t1 t2 t3 r0 r1 r2 r3 payload rest hlen
  have hlen : payload.length = (be32 l0 l1 l2 l3).toNat := hlen.trans (be32_toNat l0 l1 l2 l3).symm
  have hwf : Chunk.wf ⟨payload, ⟨r0, r1, r2, r3⟩⟩ = true :=
    decide_eq_true (by rw [hlen]; exact (be32 l0 l1 l2 l3).isLt)
  have hclen : Chunk.clen ⟨payload, ⟨r0, r1, r2, r3⟩⟩ = be32 l0 l1 l2 l3 :=
    BitVec.eq_of_toNat_eq ((Chunk.clen_toNat hwf).trans hlen)
  have hbytes : [l0, l1, l2, l3, t0, t1, t2, t3] ++ (payload ++ ([r0, r1, r2, r3] ++ rest)) =
      chunkBytes ⟨t0, t1, t2, t3⟩ ⟨payload, ⟨r0, r1, r2, r3⟩⟩ ++ rest := by
    simp [chunkBytes, hclen, wordBytes_be32, Bytes4.toList]
  rw [hbytes, decode, decodeChunk_chunkBytes seen _ hwf rest]
  simp [chunkClass, Config.tagIHDR, Config.tagIDAT, Config.tagICCP, Config.tagIEND]

/-- Settles O17. -/
theorem filterTypeSelectsPredictor : Obligations.FilterTypeSelectsPredictor := by
  intro ft data rest
  rw [← scanlineClass_eq_byNumber]
  exact decodeScanline_cons ft data rest

/-- Settles O18: the three words are the encodings of the three instructions, so O14 decodes them. -/
theorem specWordsDecode : Obligations.SpecWordsDecode :=
  ⟨decodeOfEncode .sig .sig _ [] rfl rfl rfl,
    decodeOfEncode (.chunk true) (.idat ⟨[0x78, 0x01], ⟨9, 9, 9, 9⟩⟩) _ [] rfl rfl rfl,
    decodeOfEncode (.scanline 3) (.ftPaeth [1, 2, 3]) _ [] rfl rfl rfl⟩

/-- Settles O26: a stream of fewer than eight bytes falls under the second clause because eight bytes cannot be taken from it. -/
theorem signatureCheck : Obligations.SignatureCheck := by
  intro s
  constructor
  · intro h
    exact (execSig_eq s).trans (if_pos h)
  · intro h
    have hne : s.launch.input.take 8 ≠ Config.signature := h.elim take_ne_signature_of_short id
    exact ⟨_, (execSig_eq s).trans (if_neg hne), rfl, rfl⟩

end Sys2Proof.Proofs
end

section
/-! PROOF SUPPORT. A chunk instruction, branch by branch: its class, the class run after the fetch, the flush it opens, the class run
after the flush (R103, R105, R110). -/

namespace Sys2Proof.Proofs

open Sys2Proof Sys2Proof.Machine Sys2Proof.Safety

theorem faults_of_eq {k : ErrKind} {r : Result} {s : State} (h : r = .next (raise k s)) : Faults k r :=
  ⟨_, h, rfl, rfl⟩

/-! ### The class -/

/-- Checks 2 and 3 of a chunk step (R111 to R117), by the class of its instruction; an instruction that is no chunk has none. -/
def classBody : Instr → State → Result
  | .ihdr c => ihdrBody c
  | .idat c => requireHeader (idatBody c)
  | .iccp _ => requireHeader iccpBody
  | .iend _ => requireHeader iendBody
  | .other _ _ => requireHeader otherBody
  | _ => .next

theorem exec_chunk {i : Instr} {tag : Bytes4} {c : Chunk} (hi : IsChunk i tag c) (s : State) :
    exec i s = chunkStep i tag c (classBody i) s := by
  cases hi <;> rfl

/-- The chunk goes on after its fetch: no run is pending, or it is an `IDAT`. -/
theorem exec_chunk_fetched {i : Instr} {tag : Bytes4} {c : Chunk} {s : State} (hi : IsChunk i tag c)
    (hflow : s.flow = .between) (hend : s.cps.inRun = false ∨ tag = Config.tagIDAT) :
    exec i s = classBody i (latchChunk tag c s) := (exec_chunk hi s).trans (chunkStep_body hflow hend)

/-- The chunk ends a run: check 1 opens the flush. -/
theorem exec_chunk_runEnd {i : Instr} {tag : Bytes4} {c : Chunk} {s : State} (hi : IsChunk i tag c)
    (hflow : s.flow = .between) (hin : s.cps.inRun = true) (htag : tag ≠ Config.tagIDAT) :
    exec i s = beginFlush i (latchChunk tag c s) := (exec_chunk hi s).trans (chunkStep_runEnd hflow hin htag)

/-- The chunk goes on after the flush. -/
theorem exec_chunk_resumed {i j : Instr} {tag : Bytes4} {c : Chunk} {s : State} (hi : IsChunk i tag c)
    (hflow : s.flow = .flushing j) : exec i s = classBody i (endFlush s) :=
  (exec_chunk hi s).trans (chunkStep_flushing hflow)

/-- Before a header is accepted every class but `IHDR` raises `MissingHeader` (R117). -/
theorem classBody_unseen {i : Instr} {tag : Bytes4} {c : Chunk} {b : State} (hi : IsChunk i tag c)
    (hihdr : ∀ c, i ≠ .ihdr c) (hseen : b.cps.ihdrSeen = false) :
    classBody i b = .next (raise .missingHeader b) := by
  cases hi with
  | ihdr => exact absurd rfl (hihdr c)
  | idat | iccp | iend | other => exact requireHeader_unseen hseen

theorem ihdrBody_unseen {c : Chunk} {b : State} (hseen : b.cps.ihdrSeen = false) (hlen : b.clen = Config.ihdrLength) :
    ihdrBody c b = acceptHeader (parseHeader c.payload) { b with hdr := parseHeader c.payload } := by
  rw [ihdrBody, if_neg (by rw [hseen]; nofun), if_neg (not_not.mpr hlen)]

/-- The format check belongs to the engine's entry (D11), so the dimensions alone decide (R112). -/
theorem acceptHeader_eq (h : ImageHeader) (b : State) :
    acceptHeader h b = if h.width = 0 ∨ h.height = 0 then .next (raise .invalidDimensions b)
      else .next { b with cps := b.cps.markIhdr } := by
  have hcheck : ¬ (Config.unsupportedCheckAt = .ihdrParse ∧ supported h = false) := fun hc => nomatch hc.1
  rw [acceptHeader, if_neg hcheck]

/-! ### The flush -/

/-- The state in which the engine is entered for the chunk `i`, with the decompressed bytes `z` (R110, R153). -/
def engineEntered (i : Instr) (z : List Byte) (b : State) : State :=
  { b with zbuf := z, zidx := 0, row := 0, oidx := b.pixbuf.length, flow := .flushing i }

/-- Either error of `Inflate` is `DecompressionError` (R143). -/
theorem beginFlush_failed {b : State}
    (hz : inflate b.launch.inflate b.idatbuf = .dataError ∨ inflate b.launch.inflate b.idatbuf = .memoryError)
    (i : Instr) : beginFlush i b = .next (raise .decompressionError b) := by
  rcases hz with hz | hz <;> rw [beginFlush, hz]

/-- `BPP` of a supported format, by its colour type (R20, R151). -/
theorem bppOf_supported {h : ImageHeader} (hsup : supported h = true) :
    bppOf h.colorType = some (if h.colorType = 2 then 3 else 4) := by
  rcases (supported_iff.mp hsup).1 with hct | hct <;> rw [hct] <;> rfl

/-- With the decompressed bytes `z`: the engine's two checks in their order (R151, R152), then its entry (R153). -/
theorem beginFlush_ok {b : State} {z : List Byte} (hz : inflate b.launch.inflate b.idatbuf = .ok z) (i : Instr) :
    beginFlush i b =
      if supported b.hdr = false then .next (raise .unsupportedFormat { b with zbuf := z })
      else if z.length ≠ b.hdr.height.toNat * rowBytesOf b.hdr (if b.hdr.colorType = 2 then 3 else 4) then
        .next (raise .scanlineLengthMismatch { b with zbuf := z })
      else .next (engineEntered i z b) := by
  rw [beginFlush, hz]
  cases hsup : supported b.hdr with
  | false => simp only [enterEngine, hsup, Bool.not_false, if_true]
  | true => simp [enterEngine, hsup, withBpp_some (bppOf_supported hsup), engineEntered]

end Sys2Proof.Proofs
end

section
/-! PROOF. The container family: what each chunk class does, and that the trailer takes no part (O27, O29 to O36). -/

namespace Sys2Proof.Proofs

open Sys2Proof Sys2Proof.Machine Sys2Proof.Safety

theorem be32_eq_zero_iff {b0 b1 b2 b3 : Byte} :
    be32 b0 b1 b2 b3 = 0 ↔ 2 ^ 24 * b0.toNat + 2 ^ 16 * b1.toNat + 2 ^ 8 * b2.toNat + b3.toNat = 0 := by
  rw [← be32_toNat]; exact BitVec.toNat_eq

/-- Settles O27: the payload's length is right, so the dimensions decide; both are the big-endian values (R6). -/
theorem firstIhdrStoresHeader : Obligations.FirstIhdrStoresHeader := by
  intro s p0 p1 p2 p3 p4 p5 p6 p7 p8 p9 p10 p11 p12 crc hflow hseen hin c w h
  have e : exec (.ihdr c) s = acceptHeader (parseHeader c.payload)
      { latchChunk Config.tagIHDR c s with hdr := parseHeader c.payload } :=
    (exec_chunk_fetched (.ihdr c) hflow (.inl hin)).trans (ihdrBody_unseen hseen rfl)
  have hw : (parseHeader c.payload).width = 0 ↔ w = 0 := be32_eq_zero_iff
  have hh : (parseHeader c.payload).height = 0 ↔ h = 0 := be32_eq_zero_iff
  rw [acceptHeader_eq] at e
  constructor
  · intro hdim
    exact faults_of_eq (e.trans (if_pos (hdim.imp hw.mpr hh.mpr)))
  · intro hw0 hh0
    exact e.trans (if_neg (not_or.mpr ⟨mt hw.mp hw0, mt hh.mp hh0⟩))

/-- Settles O29: an `IDAT` never ends a run, so its class follows the fetch in a run or not. -/
theorem idatAppendsItsPayload : Obligations.IdatAppendsItsPayload := by
  intro s c hflow hseen
  exact (exec_chunk_fetched (.idat c) hflow (.inr rfl)).trans (requireHeader_seen hseen)

/-- `ICCP` once a header is accepted (R114). -/
theorem iccpBody_clauses {b : State} (c : Chunk) (hseen : b.cps.ihdrSeen = true) :
    (b.cps.idatSeen = true → Faults .chunkOrderingViolation (classBody (.iccp c) b)) ∧
      (b.cps.idatSeen = false → classBody (.iccp c) b = .next b) := by
  have e : classBody (.iccp c) b = iccpBody b := requireHeader_seen hseen
  constructor
  · intro hidat
    exact faults_of_eq (e.trans (if_pos hidat))
  · intro hidat
    exact e.trans (if_neg (Bool.eq_false_iff.mp hidat))

/-- Settles O30: the class runs in the fetched state. -/
theorem iccpMustPrecedeImageData : Obligations.IccpMustPrecedeImageData := by
  intro s c hflow hseen hin
  rw [exec_chunk_fetched (.iccp c) hflow (.inl hin)]
  exact iccpBody_clauses c (b := latchChunk Config.tagICCP c s) hseen

/-- Settles O31: after the fetch the class does nothing. -/
theorem otherChunkIsDiscarded : Obligations.OtherChunkIsDiscarded := by
  intro s tag c hflow hseen hin
  exact (exec_chunk_fetched (.other tag c) hflow (.inl hin)).trans (requireHeader_seen hseen)

/-- Settles O32: the class ends the launch in the fetched state. -/
theorem iendTerminates : Obligations.IendTerminates := by
  intro s c hflow hseen hin
  exact (exec_chunk_fetched (.iend c) hflow (.inl hin)).trans (requireHeader_seen hseen)

/-- Settles O33: after the fetch, check 2 raises for every class but `IHDR`. -/
theorem missingHeaderBeforeIhdr : Obligations.MissingHeaderBeforeIhdr := by
  intro s tag c hflow hseen hin
  have missing {i : Instr} {tag : Bytes4} (hi : IsChunk i tag c) (hihdr : ∀ c, i ≠ .ihdr c) :
      Faults .missingHeader (exec i s) :=
    faults_of_eq ((exec_chunk_fetched hi hflow (.inl hin)).trans
      (classBody_unseen (b := latchChunk tag c s) hi hihdr hseen))
  exact ⟨missing (.idat c) nofun, missing (.iccp c) nofun, missing (.iend c) nofun, missing (.other tag c) nofun⟩

/-- Settles O35: the class runs in the state after the flush. -/
theorem flushEndRunsTheChunk : Obligations.FlushEndRunsTheChunk := by
  intro s j tag c hflow hseen
  rw [exec_chunk_resumed (.iccp c) hflow]
  obtain ⟨hafter, hbefore⟩ := iccpBody_clauses c (b := endFlush s) hseen
  refine ⟨hafter, hbefore, ?_, ?_⟩
  · exact (exec_chunk_resumed (.other tag c) hflow).trans (requireHeader_seen hseen)
  · exact (exec_chunk_resumed (.iend c) hflow).trans (requireHeader_seen hseen)

/-- Settles O34: each of the three classes opens the flush in the fetched state. -/
theorem runEndOpensFlush : Obligations.RunEndOpensFlush := by
  intro s tag c i hi hflow hin h bpp ok
  obtain ⟨hchunk, htag⟩ : IsChunk i tag c ∧ tag ≠ Config.tagIDAT := by
    obtain ⟨rfl, rfl⟩ | ⟨rfl, rfl⟩ | ⟨rfl, htag⟩ := hi
    · exact ⟨.iccp c, by decide⟩
    · exact ⟨.iend c, by decide⟩
    · exact ⟨.other tag c, htag⟩
  have e : exec i s = beginFlush i (latchChunk tag c s) := exec_chunk_runEnd hchunk hflow hin htag
  refine ⟨fun hz => faults_of_eq (e.trans (beginFlush_failed (b := latchChunk tag c s) hz i)), fun z hz => ?_⟩
  have e := e.trans (beginFlush_ok (b := latchChunk tag c s) hz i)
  have hsup : ok → ¬ supported h = false := fun hok hno => absurd ((supported_iff.mpr hok).symm.trans hno) nofun
  refine ⟨fun hno => ?_, fun hok hlen => ?_, fun hok hlen => ?_⟩
  · exact faults_of_eq (e.trans (if_pos (Bool.eq_false_iff.mpr (mt supported_iff.mp hno))))
  · exact faults_of_eq (e.trans ((if_neg (hsup hok)).trans (if_pos hlen)))
  · exact e.trans ((if_neg (hsup hok)).trans (if_neg (not_not.mpr hlen)))

/-! ### The trailer -/

/-- The fetch and the class read the payload alone, so a chunk step that opens no flush is the same whatever the trailer. -/
theorem chunkStep_trailer {i i' : Instr} {tag : Bytes4} {p : List Byte} {crc crc' : Bytes4} {body : State → Result}
    {s : State} (hend : s.cps.inRun = false ∨ s.flow ≠ .between ∨ tag = Config.tagIDAT) :
    chunkStep i tag ⟨p, crc⟩ body s = chunkStep i' tag ⟨p, crc'⟩ body s := by
  cases hflow : s.flow with
  | flushing j => rw [chunkStep_flushing hflow, chunkStep_flushing hflow]
  | between =>
    have hend : s.cps.inRun = false ∨ tag = Config.tagIDAT := hend.imp_right (·.resolve_left (not_not.mpr hflow))
    rw [chunkStep_body hflow hend, chunkStep_body hflow hend]; rfl

/-- The opening of a flush does not read the chunk that it remembers. -/
theorem beginFlush_alikeOpening (i i' : Instr) (s : State) :
    AlikeOpening i i' (beginFlush i s) (beginFlush i' s) := by
  have raised (k : ErrKind) (b : State) : AlikeOpening i i' (.next (raise k b)) (.next (raise k b)) :=
    .inl ⟨k, faults_of_eq rfl, faults_of_eq rfl⟩
  cases hz : inflate s.launch.inflate s.idatbuf with
  | dataError => rw [beginFlush_failed (.inl hz), beginFlush_failed (.inl hz)]; exact raised _ _
  | memoryError => rw [beginFlush_failed (.inr hz), beginFlush_failed (.inr hz)]; exact raised _ _
  | ok z =>
    rw [beginFlush_ok hz, beginFlush_ok hz]
    generalize (if s.hdr.colorType = 2 then 3 else 4) = bpp
    split
    · exact raised _ _
    split
    · exact raised _ _
    · exact .inr ⟨engineEntered i z s, rfl, rfl⟩

theorem exec_chunk_alikeOpening {i i' : Instr} {tag : Bytes4} {p : List Byte} {crc crc' : Bytes4} {s : State}
    (hi : IsChunk i tag ⟨p, crc⟩) (hi' : IsChunk i' tag ⟨p, crc'⟩) (hflow : s.flow = .between)
    (hin : s.cps.inRun = true) (htag : tag ≠ Config.tagIDAT) : AlikeOpening i i' (exec i s) (exec i' s) := by
  rw [exec_chunk_runEnd hi hflow hin htag, exec_chunk_runEnd hi' hflow hin htag]
  exact beginFlush_alikeOpening i i' (latchChunk tag ⟨p, crc⟩ s)

/-- Settles O36: without a flush to open the outcomes are equal; with one, they differ in the chunk it remembers. -/
theorem trailerTakesNoPart : Obligations.TrailerTakesNoPart := by
  intro s tag p crc crc' c c'
  refine ⟨.inl (chunkStep_trailer (.inr (.inr rfl))), fun hend => .inl (chunkStep_trailer hend), fun hend => ?_,
    fun hin hflow => ⟨?_, ?_, ?_, fun htag => ?_⟩⟩
  · have hend : ∀ tag, s.cps.inRun = false ∨ s.flow ≠ .between ∨ tag = Config.tagIDAT := fun _ => hend.imp_right .inl
    exact ⟨.inl (chunkStep_trailer (hend _)), .inl (chunkStep_trailer (hend _)), .inl (chunkStep_trailer (hend _))⟩
  · exact exec_chunk_alikeOpening (.ihdr c) (.ihdr c') hflow hin (by decide)
  · exact exec_chunk_alikeOpening (.iccp c) (.iccp c') hflow hin (by decide)
  · exact exec_chunk_alikeOpening (.iend c) (.iend c') hflow hin (by decide)
  · exact exec_chunk_alikeOpening (.other tag c) (.other tag c') hflow hin htag

end Sys2Proof.Proofs
end

section
/-! PROOF. What a step of a launch runs: the signature check, the chunk at `POS`, the chunk that ended a run, or the end of the
stream (O19, O21, O22, O25). -/

namespace Sys2Proof.Proofs

open Sys2Proof Sys2Proof.Machine Sys2Proof.Safety

/-- At a boundary the step carries out the action of the stream at `POS` (R101). -/
theorem step_between {s : State} (hrun : s.phase = .run) (hq : NoReset s) (hflow : s.flow = .between) :
    step s = Action.result (chunkAction s) := by rw [step_launch hrun hq, runAction_between hflow]

/-- Inside a flush the step carries out the action of the engine (R150). -/
theorem step_flushing {s : State} {i : Instr} (hrun : s.phase = .run) (hq : NoReset s) (hflow : s.flow = .flushing i) :
    step s = Action.result (flushAction i s) := by rw [step_launch hrun hq, runAction_flushing hflow]

/-- After the signature, before the end of the stream: the whole chunk at `POS` is there (R103). -/
theorem chunkAction_fetched {s : State} {i : Instr} {rest : List Byte} (hpos : s.pos ≠ 0)
    (hend : s.pos ≠ s.launch.input.length)
    (hdec : decode (.chunk s.cps.ihdrSeen) (s.launch.input.drop s.pos) = .ok (i, rest)) :
    chunkAction s = .exec i s := by rw [chunkAction, if_neg hpos, if_neg hend, hdec]

/-- The stream ends inside the chunk at `POS` (R219). -/
theorem chunkAction_truncated {s : State} {err : DecodeError} (hpos : s.pos ≠ 0)
    (hend : s.pos ≠ s.launch.input.length)
    (hdec : decode (.chunk s.cps.ihdrSeen) (s.launch.input.drop s.pos) = .error err) :
    chunkAction s = .answer (.next (raise .truncatedChunk s)) := by
  rw [chunkAction, if_neg hpos, if_neg hend, hdec]

/-- Settles O19: between signature and end of stream, the chunk at `POS` is fetched. -/
theorem stepRunsDecodedChunk : Obligations.StepRunsDecodedChunk := by
  intro s i rest hrun hq hflow hpos hlt hdec
  rw [step_between hrun hq hflow, chunkAction_fetched hpos hlt.ne hdec]; rfl

/-- Settles O21: no scanline is left, so the pending chunk goes on. -/
theorem stepResumesFlushingChunk : Obligations.StepResumesFlushingChunk := by
  intro s i hrun hq hflow hrow
  rw [step_flushing hrun hq hflow, flushAction, if_neg hrow.not_lt]; rfl

/-- Settles O22: `POS = 0` is tested before all else. -/
theorem stepRunsSignatureFirst : Obligations.StepRunsSignatureFirst := by
  intro s hrun hq hflow hpos
  rw [step_between hrun hq hflow, chunkAction, if_pos hpos]; rfl

/-- Settles O25: the end of the stream is tested before a chunk is fetched, and opens no flush. -/
theorem endOfStreamTerminatesWithoutFlush : Obligations.EndOfStreamTerminatesWithoutFlush := by
  intro s hrun hq hflow hpos hend
  rw [step_between hrun hq hflow, chunkAction, if_neg hpos, if_pos hend]; rfl

end Sys2Proof.Proofs
end

section
/-! PROOF. Every launch ends (O7): a step in `RUN` has a next state, and it consumes stream bytes or, at the same `POS`, scanlines of
the flush. -/

namespace Sys2Proof.Proofs

open Sys2Proof Sys2Proof.Machine Sys2Proof.Safety

/-! ### A step in `RUN` has a next state -/

theorem requireHeader_hasNext {body : State → Result} {b : State} (h : ∃ t, body b = .next t) :
    ∃ t, requireHeader body b = .next t := by
  unfold requireHeader
  split
  · exact h
  · exact ⟨_, rfl⟩

theorem ihdrBody_hasNext (c : Chunk) (b : State) : ∃ t, ihdrBody c b = .next t := by
  unfold ihdrBody
  split
  · exact ⟨_, rfl⟩
  split
  · exact ⟨_, rfl⟩
  rw [acceptHeader_eq]
  split <;> exact ⟨_, rfl⟩

theorem classBody_hasNext (i : Instr) (b : State) : ∃ t, classBody i b = .next t := by
  cases i with
  | ihdr c => exact ihdrBody_hasNext c b
  | idat c => exact requireHeader_hasNext ⟨_, rfl⟩
  | iccp c =>
    refine requireHeader_hasNext ?_
    unfold iccpBody
    split <;> exact ⟨_, rfl⟩
  | iend c => exact requireHeader_hasNext ⟨_, rfl⟩
  | other tag c => exact requireHeader_hasNext ⟨_, rfl⟩
  | _ => exact ⟨_, rfl⟩

theorem beginFlush_hasNext (i : Instr) (b : State) : ∃ t, beginFlush i b = .next t := by
  cases hz : inflate b.launch.inflate b.idatbuf with
  | dataError => exact ⟨_, beginFlush_failed (.inl hz) i⟩
  | memoryError => exact ⟨_, beginFlush_failed (.inr hz) i⟩
  | ok z =>
    rw [beginFlush_ok hz]
    split
    · exact ⟨_, rfl⟩
    · exact ⟨_, (apply_ite Host.Outcome.next _ _ _).symm⟩

theorem exec_chunk_hasNext {i : Instr} {tag : Bytes4} {c : Chunk} (hi : IsChunk i tag c) (s : State) :
    ∃ t, exec i s = .next t := by
  cases hflow : s.flow with
  | flushing j => rw [exec_chunk_resumed hi hflow]; exact classBody_hasNext i _
  | between =>
    by_cases hend : s.cps.inRun = false ∨ tag = Config.tagIDAT
    · rw [exec_chunk_fetched hi hflow hend]; exact classBody_hasNext i _
    · obtain ⟨hin, htag⟩ : s.cps.inRun = true ∧ tag ≠ Config.tagIDAT := by simpa using hend
      rw [exec_chunk_runEnd hi hflow hin htag]; exact beginFlush_hasNext i _

theorem exec_fetched_hasNext {s : State} {i : Instr} (l : LiveInv s) (hi : Fetches s i) : ∃ t, exec i s = .next t := by
  cases hi with
  | sig =>
    have e : exec .sig s = execSig s := rfl
    rw [e, execSig_eq]
    split <;> exact ⟨_, rfl⟩
  | chunk tag c => exact exec_chunk_hasNext (isChunk_chunkClass _ tag c) s
  | scanline ftype data _ bpp _ _ hbpp =>
    obtain he | ⟨ft, pred, he⟩ := exec_scanlineClass ftype data
    · exact ⟨_, he s⟩
    · exact ⟨_, (he s).trans (execRow_eq hbpp)⟩
  | pending _ hflow =>
    obtain ⟨⟨tag, c, hc⟩, -⟩ := flush_pending l hflow
    exact exec_chunk_hasNext hc s

theorem step_hasNext {s : State} (hinv : Inv s) (hrun : s.phase = .run) (hq : NoReset s) : ∃ t, step s = .next t := by
  have l := inv_live hinv hrun
  rw [step_launch hrun hq]
  cases runAction_alike (fetchAlike_refl s) with
  | endOfStream _ _ _ e => rw [e]; exact ⟨_, rfl⟩
  | fetched i hi e => rw [e]; exact exec_fetched_hasNext l hi
  | truncated e => rw [e]; exact ⟨_, rfl⟩
  | stopped r e => exact absurd e (runAction_ne_fault l r)

/-! ### The measure -/

/-- The stream bytes not consumed yet (R14). -/
def bytesLeft (s : State) : Nat := s.launch.input.length - s.pos

/-- The steps a flush still takes: its scanlines, and the pending chunk after them (R150, R165). -/
def flushStepsLeft (s : State) : Nat :=
  match s.flow with
  | .between => 0
  | .flushing _ => s.hdr.height.toNat - s.row + 1

theorem flushStepsLeft_between {s : State} (h : s.flow = .between) : flushStepsLeft s = 0 := by
  simp [flushStepsLeft, h]

theorem flushStepsLeft_flushing {s : State} {i : Instr} (h : s.flow = .flushing i) :
    flushStepsLeft s = s.hdr.height.toNat - s.row + 1 := by simp [flushStepsLeft, h]

/-- The launch is nearer to its end: stream bytes are consumed, or, at the same `POS`, a step of the flush is. -/
def Nearer (t s : State) : Prop :=
  bytesLeft t < bytesLeft s ∨ bytesLeft t = bytesLeft s ∧ flushStepsLeft t < flushStepsLeft s

theorem bytesLeft_lt {s t : State} (hl : t.launch = s.launch) (hlt : s.pos < t.pos)
    (hle : t.pos ≤ s.launch.input.length) : bytesLeft t < bytesLeft s := by
  rw [bytesLeft, bytesLeft, hl]; omega

theorem bytesLeft_eq {s t : State} (hl : t.launch = s.launch) (hp : t.pos = s.pos) : bytesLeft t = bytesLeft s := by
  rw [bytesLeft, bytesLeft, hl, hp]

theorem flushStepsLeft_lt {s t : State} {i : Instr} (hs : s.flow = .flushing i) (ht : t.flow = .flushing i)
    (hhdr : t.hdr = s.hdr) (hlt : s.row < s.hdr.height.toNat) (hrow : t.row = s.row + 1) :
    flushStepsLeft t < flushStepsLeft s := by
  rw [flushStepsLeft_flushing hs, flushStepsLeft_flushing ht, hhdr, hrow]; omega

theorem classEffect_flow_hostQueue {b t : State} (h : ClassEffect b t) (hp : t.phase ≠ .fault) :
    t.flow = b.flow ∧ t.hostQueue = b.hostQueue := by
  cases h with
  | raised h => exact absurd h.phase hp
  | header | imageData | discarded | terminated => exact ⟨rfl, rfl⟩

/-- A step that leaves the launch in `RUN` brings it nearer to its end, and takes no host transaction. -/
theorem launchStep_nearer {s t : State} (h : LaunchStep s t) (ht : t.phase = .run) :
    t.hostQueue = s.hostQueue ∧ Nearer t s := by
  have hp : t.phase ≠ .fault := by rw [ht]; nofun
  cases h with
  | raised h => exact absurd h.phase hp
  | signature _ hpos hlen =>
    exact ⟨rfl, .inl (bytesLeft_lt rfl (show s.pos < 8 by omega) hlen)⟩
  | endOfStream => cases ht
  | chunk i tag c hflow _ hfits _ h =>
    have hfetch : s.pos < (latchChunk tag c s).pos := by rw [latchChunk_pos]; omega
    cases h with
    | raised h => exact absurd h.phase hp
    | opened => exact ⟨rfl, .inl (bytesLeft_lt rfl hfetch hfits)⟩
    | fetched _ h =>
      obtain ⟨hl, hpos, -⟩ := classEffect_frame h hp
      obtain ⟨-, hqueue⟩ := classEffect_flow_hostQueue h hp
      exact ⟨hqueue, .inl (bytesLeft_lt hl (hfetch.trans_eq hpos.symm) (hpos.trans_le hfits))⟩
    | resumed j hj => exact absurd (hflow.symm.trans hj) nofun
  | scanline i ft pred data bpp hflow hrow =>
    exact ⟨rfl, .inr ⟨rfl, flushStepsLeft_lt hflow hflow rfl hrow rfl⟩⟩
  | resumed i hflow _ h =>
    obtain ⟨hl, hpos, -⟩ := classEffect_frame h hp
    obtain ⟨htflow, hqueue⟩ := classEffect_flow_hostQueue h hp
    refine ⟨hqueue, .inr ⟨bytesLeft_eq hl hpos, ?_⟩⟩
    rw [flushStepsLeft_between htflow, flushStepsLeft_flushing hflow]
    exact Nat.succ_pos _

/-- By induction on the stream bytes and the flush steps left, in lexicographic order. -/
theorem run_reaches_end {s : State} (hinv : Inv s) (hrun : s.phase = .run) (hq : NoReset s) :
    ∃ n t, Host.Core.run core n s = .next t ∧ (t.phase = .done ∨ t.phase = .fault) := by
  obtain ⟨t, hstep⟩ := step_hasNext hinv hrun hq
  by_cases ht : t.phase = .run
  · obtain ⟨hqueue, hnear⟩ := launchStep_nearer (step_launchStep hinv hrun hq hstep) ht
    obtain ⟨n, t', hn, hend⟩ := run_reaches_end (stepKeepsInvariant s t hinv hstep) ht (by rwa [NoReset, hqueue])
    exact ⟨n + 1, t', (run_succ_of_next (M := core) hstep n).trans hn, hend⟩
  · refine ⟨1, t, run_succ_of_next (M := core) hstep 0, ?_⟩
    obtain ⟨-, hp⟩ | ⟨-, hp⟩ := errorsEndTheLaunch s t hinv hrun hq hstep
    · exact .inl (hp.resolve_left ht)
    · exact .inr hp
termination_by (bytesLeft s, flushStepsLeft s)
decreasing_by exact Prod.lex_def.mpr hnear

/-- Settles O7: the measure is bounded, so the launch reaches its end. -/
theorem launchTerminates : Obligations.LaunchTerminates := fun _ => run_reaches_end

end Sys2Proof.Proofs
end

section
/-! PROOF SUPPORT. A scanline of the engine against the byte loop of R150 as `Safety.lean` writes it: the predictors by filter type, one
row, its fetch from `ZBUF`. -/

namespace Sys2Proof.Proofs

open Sys2Proof Sys2Proof.Machine Sys2Proof.Safety

/-! ### The predictors -/

theorem calcPaeth_toNat (a b c : Byte) : (calcPaeth a b c).toNat = paethNat a.toNat b.toNat c.toNat := by
  have ha : (a.toNat : Int) + b.toNat - c.toNat - a.toNat = b.toNat - c.toNat := by ring
  have hb : (a.toNat : Int) + b.toNat - c.toNat - b.toNat = a.toNat - c.toNat := by ring
  have hc : (a.toNat : Int) + b.toNat - c.toNat - c.toNat = a.toNat + b.toNat - 2 * c.toNat := by ring
  simp only [calcPaeth, paethNat, ha, hb, hc, apply_ite BitVec.toNat]

theorem leftAt_length (bpp stride : Nat) (pix : List Byte) :
    leftAt bpp stride pix pix.length = (leftOf bpp stride pix).toNat := by
  simp [leftAt, leftOf, leftEdge, apply_ite BitVec.toNat]

theorem upAt_length (stride : Nat) (pix : List Byte) : upAt stride pix pix.length = (upOf stride pix).toNat := by
  simp [upAt, upOf, topEdge, apply_ite BitVec.toNat]

theorem upLeftAt_length (bpp stride : Nat) (pix : List Byte) :
    upLeftAt bpp stride pix pix.length = (upLeftOf bpp stride pix).toNat := by
  simp [upLeftAt, upLeftOf, leftEdge, topEdge, apply_ite BitVec.toNat]

/-- The predictor of a filter type (R77, R150). -/
def predictorOf (ft : Nat) : Predictor := fun left up upLeft => predByType ft left.toNat up.toNat upLeft.toNat

theorem predictorOf_paeth : predictorOf 4 = predPaeth := by
  funext left up upLeft
  exact (calcPaeth_toNat left up upLeft).symm

/-- A filter type up to 4 reconstructs the scanline with its predictor. -/
theorem exec_scanline_defined {ft : Byte} (hft : ft.toNat ≤ 4) (data : List Byte) (s : State) :
    exec (scanlineClass ft data) s = execRow ft (predictorOf ft.toNat) data s := by
  obtain ⟨hscan, hwf⟩ := scanlineClass_spec ft data
  generalize scanlineClass ft data = i at hscan hwf ⊢
  cases hscan with
  | ftNone | ftSub | ftUp | ftAverage => rfl
  | ftPaeth => exact congrArg (execRow 4 · data s) predictorOf_paeth.symm
  | ftReserved => exact absurd hft (Nat.not_le.mpr (of_decide_eq_true hwf))

/-- A filter type above 4 raises `BadFilterType` (R166). -/
theorem exec_scanline_reserved {ft : Byte} (hft : 4 < ft.toNat) (data : List Byte) (s : State) :
    exec (scanlineClass ft data) s = .next (raise .badFilterType { s with ft := ft }) := by
  rw [← (IsScanline.ftReserved ft data).eq_scanlineClass (decide_eq_true hft)]; rfl

/-! ### One row -/

theorem memRead_succ {z : List Byte} {a n : Nat} (h : a + n < z.length) :
    memRead z a (n + 1) = memRead z a n ++ [z.getD (a + n) 0] := by
  rw [memRead, memRead, List.take_add_one, List.getElem?_drop, List.getElem?_eq_getElem h,
    List.getD_eq_getElem _ _ h]
  rfl

/-- One byte of the row (R150, R160). -/
theorem appendByte_predictorOf (bpp stride ft : Nat) (pix : List Byte) (f : Byte) :
    appendByte bpp stride (predictorOf ft) pix f =
      pix ++ [BitVec.ofNat 8 (f.toNat + predByType ft (leftAt bpp stride pix pix.length) (upAt stride pix pix.length)
        (upLeftAt bpp stride pix pix.length))] := by
  rw [leftAt_length, upAt_length, upLeftAt_length, appendByte, memAppend, reconstructByte, predictorOf]
  congr 2
  exact BitVec.eq_of_toNat_eq (by simp)

/-- The machine's row is the byte loop of R150, for any number of the scanline's bytes. -/
theorem reconstructRow_eq_specBytes {bpp stride zidx n : Nat} {z pix : List Byte} (h : zidx + 1 + n ≤ z.length) :
    reconstructRow bpp stride (predictorOf (z.getD zidx 0).toNat) (memRead z (zidx + 1) n) pix =
      specBytes bpp stride z zidx n pix := by
  induction n with
  | zero => rfl
  | succ n ih =>
    rw [memRead_succ (by omega), reconstructRow_append, ih (by omega), reconstructRow_cons, reconstructRow_nil,
      appendByte_predictorOf]
    rfl

/-- The scanline at `zidx` of `ZBUF` is there to be decoded (R76). -/
theorem decode_scanline_at {z : List Byte} {zidx n : Nat} (h : zidx + 1 + n ≤ z.length) :
    ∃ rest, decode (.scanline n) (z.drop zidx) =
      .ok (scanlineClass (z.getD zidx 0) (memRead z (zidx + 1) n), rest) := by
  have hlt : zidx < z.length := by omega
  have hdata : (memRead z (zidx + 1) n).length = n := memRead_length h
  have hz : z.drop zidx = z.getD zidx 0 :: (memRead z (zidx + 1) n ++ (z.drop (zidx + 1)).drop n) := by
    rw [memRead, List.take_append_drop, List.getD_eq_getElem _ _ hlt, List.drop_eq_getElem_cons hlt]
  have hdec := decodeScanline_cons (z.getD zidx 0) (memRead z (zidx + 1) n) ((z.drop (zidx + 1)).drop n)
  rw [hdata, ← hz] at hdec
  exact ⟨_, hdec⟩

end Sys2Proof.Proofs
end

section
/-! PROOF. The sub-steps of a chunk step make the indivisible one of R105 (O8). -/

namespace Sys2Proof.Proofs

open Sys2Proof Sys2Proof.Machine Sys2Proof.Safety

/-! ### What it means to carry out a result of the spec's pseudocode -/

/-- An outcome of the machine realises a result of the spec's functions: it is the exception that was raised (R31), or what `go` makes
of the state that was reached. -/
def Realises (go : State → Result) : Except ErrKind State → Result → Prop
  | .ok t, r => r = go t
  | .error k, r => Faults k r

theorem run_succ_of_fault {M : Host.Core} {s : M.State} {x : M.Fault} (h : M.step s = .fault x) (n : Nat) :
    M.run (n + 1) s = .fault x := by rw [Host.Core.run, h]

theorem run_one (s : State) : Host.Core.run core 1 s = step s := by
  cases hstep : step s with
  | next t => exact run_succ_of_next (M := core) hstep 0
  | fault x => exact run_succ_of_fault (M := core) hstep 0
  | refused y => exact run_succ_of_refused (M := core) hstep 0

/-- A run goes on from where it has come. -/
theorem run_add_of_next {n : Nat} {s t : State} (h : Host.Core.run core n s = .next t) (m : Nat) :
    Host.Core.run core (n + m) s = Host.Core.run core m t := by
  induction n generalizing s with
  | zero => cases h; rw [Nat.zero_add]
  | succ n ih =>
    rw [Nat.add_right_comm]
    cases hstep : step s with
    | next t' =>
      rw [run_succ_of_next (M := core) hstep] at h ⊢
      exact ih h
    | fault x => rw [run_succ_of_fault (M := core) hstep] at h; cases h
    | refused y => rw [run_succ_of_refused (M := core) hstep] at h; cases h

/-! ### The class -/

/-- Checks 2 and 3 of the machine are those of R105 (R111 to R117), after the fetch or after the flush. -/
theorem classBody_realises (tag : Bytes4) {c : Chunk} {b : State} (hclen : b.clen = c.clen) :
    Realises .next (specClass c.clen tag c.payload b) (classBody (chunkClass b.cps.ihdrSeen tag c) b) := by
  cases hseen : b.cps.ihdrSeen with
  | false =>
    by_cases htag : tag = Config.tagIHDR
    · subst htag
      have hspec : ¬ (b.cps.ihdrSeen = false ∧ Config.tagIHDR ≠ Config.tagIHDR) := fun h => h.2 rfl
      rw [specClass, if_neg hspec, if_pos hseen]
      by_cases hlen : c.clen = 13
      · have e : classBody (chunkClass false Config.tagIHDR c) b = _ := ihdrBody_unseen hseen (hclen.trans hlen)
        rw [if_neg (not_not.mpr hlen), e, acceptHeader_eq]
        split
        · exact faults_of_eq rfl
        · rfl
      · rw [if_pos hlen]
        have hb : b.clen ≠ Config.ihdrLength := by rw [hclen]; exact hlen
        exact faults_of_eq ((if_neg (Bool.eq_false_iff.mp hseen)).trans (if_pos hb))
    · have hihdr : ∀ c', chunkClass false tag c ≠ .ihdr c' := by
        intro c' h
        have hfits := isChunk_chunkClass false tag c
        rw [h] at hfits
        cases hfits; exact htag rfl
      rw [specClass, if_pos ⟨hseen, htag⟩, classBody_unseen (isChunk_chunkClass false tag c) hihdr hseen]
      exact faults_of_eq rfl
  | true =>
    have hspec : ¬ b.cps.ihdrSeen = false := by rw [hseen]; nofun
    rw [specClass, if_neg (fun h => hspec h.1), if_neg hspec]
    simp only [chunkClass, Bool.not_true, Bool.false_and, Bool.false_eq_true, if_false, beq_iff_eq]
    split
    · exact requireHeader_seen hseen
    split
    · obtain ⟨hafter, hbefore⟩ := iccpBody_clauses c hseen
      split
      · next hidat => exact hafter hidat
      · next hidat => exact hbefore (Bool.eq_false_iff.mpr hidat)
    split <;> exact requireHeader_seen hseen

/-! ### The row loop -/

/-- The state inside the flush of `i` when `n` scanlines are done and `PIXBUF` is `pix` (R153). -/
def afterRows (i : Instr) (z : List Byte) (b : State) (bpp n : Nat) (pix : List Byte) : State :=
  { engineEntered i z b with
    zidx := n * rowBytesOf b.hdr bpp
    row := n
    oidx := pix.length
    pixbuf := pix
    ft := if n = 0 then b.ft else z.getD ((n - 1) * rowBytesOf b.hdr bpp) 0 }

theorem afterRows_zero (i : Instr) (z : List Byte) (b : State) (bpp : Nat) :
    afterRows i z b bpp 0 b.pixbuf = engineEntered i z b := by
  rw [afterRows, Nat.zero_mul]; rfl

theorem flushAction_scanline {i j : Instr} {s : State} {bpp : Nat} {rest : List Byte}
    (hrow : s.row < s.hdr.height.toNat) (hbpp : bppOf s.hdr.colorType = some bpp)
    (hdec : decode (.scanline (strideOf s.hdr bpp)) (s.zbuf.drop s.zidx) = .ok (j, rest)) :
    flushAction i s = .exec j s := by
  rw [flushAction, if_pos hrow, hbpp]
  simp only [hdec]

section
variable {b : State} {i : Instr} {z : List Byte} {bpp : Nat} (hrun : b.phase = .run) (hq : NoReset b)
  (hbpp : bppOf b.hdr.colorType = some bpp) (hlen : z.length = b.hdr.height.toNat * rowBytesOf b.hdr bpp)
include hlen

theorem scanline_end_le {n : Nat} (hn : n < b.hdr.height.toNat) :
    n * rowBytesOf b.hdr bpp + 1 + strideOf b.hdr bpp ≤ z.length := by
  have h : (n + 1) * rowBytesOf b.hdr bpp ≤ b.hdr.height.toNat * rowBytesOf b.hdr bpp := Nat.mul_le_mul_right _ hn
  rw [Nat.succ_mul, ← hlen, rowBytesOf] at h
  rw [rowBytesOf]; omega

include hrun hq hbpp

/-- The step inside the flush runs scanline `n` of the decompressed bytes. -/
theorem step_afterRows {n : Nat} (hn : n < b.hdr.height.toNat) (pix : List Byte) :
    step (afterRows i z b bpp n pix) =
      exec (scanlineClass (z.getD (n * rowBytesOf b.hdr bpp) 0)
        (memRead z (n * rowBytesOf b.hdr bpp + 1) (strideOf b.hdr bpp))) (afterRows i z b bpp n pix) := by
  obtain ⟨rest, hdec⟩ := decode_scanline_at (scanline_end_le hlen hn)
  rw [step_flushing (s := afterRows i z b bpp n pix) (i := i) hrun hq rfl,
    flushAction_scanline (s := afterRows i z b bpp n pix) hn hbpp hdec]
  rfl

/-- A scanline with a defined filter type is one turn of the row loop. -/
theorem step_afterRows_defined {n : Nat} (hn : n < b.hdr.height.toNat) (pix : List Byte)
    (hft : (z.getD (n * rowBytesOf b.hdr bpp) 0).toNat ≤ 4) :
    step (afterRows i z b bpp n pix) = .next (afterRows i z b bpp (n + 1)
      (specBytes bpp (strideOf b.hdr bpp) z (n * rowBytesOf b.hdr bpp) (strideOf b.hdr bpp) pix)) := by
  have hend := scanline_end_le hlen hn
  have hdata := memRead_length hend
  rw [step_afterRows hrun hq hbpp hlen hn, exec_scanline_defined hft,
    execRow_eq (s := afterRows i z b bpp n pix) hbpp, ← reconstructRow_eq_specBytes hend]
  have hzidx : n * rowBytesOf b.hdr bpp + (1 + strideOf b.hdr bpp) = (n + 1) * rowBytesOf b.hdr bpp :=
    (Nat.succ_mul _ _).symm
  simp only [afterRows, engineEntered, hdata, hzidx, reconstructRow_length, Nat.add_one_sub_one, Nat.succ_ne_zero,
    if_false]

/-- The first `n` scanlines are the row loop of R150. -/
theorem run_rows {n : Nat} (hn : n ≤ b.hdr.height.toNat) :
    ∃ m, Realises .next ((specRows bpp (strideOf b.hdr bpp) z n b.pixbuf).map (afterRows i z b bpp n))
      (Host.Core.run core m (engineEntered i z b)) := by
  induction n with
  | zero => exact ⟨0, congrArg Host.Outcome.next (afterRows_zero i z b bpp).symm⟩
  | succ n ih =>
    obtain ⟨m, ih⟩ := ih (Nat.le_of_succ_le hn)
    cases hrows : specRows bpp (strideOf b.hdr bpp) z n b.pixbuf with
    | error k =>
      have e : specRows bpp (strideOf b.hdr bpp) z (n + 1) b.pixbuf = .error k := by rw [specRows, hrows]
      rw [hrows] at ih
      exact ⟨m, by rw [e]; exact ih⟩
    | ok pix =>
      rw [hrows] at ih
      refine ⟨m + 1, ?_⟩
      rw [run_add_of_next ih 1, run_one]
      by_cases hft : 4 < (z.getD (n * rowBytesOf b.hdr bpp) 0).toNat
      · have e : specRows bpp (strideOf b.hdr bpp) z (n + 1) b.pixbuf = .error .badFilterType := by
          rw [specRows, hrows]; exact if_pos hft
        rw [e, step_afterRows hrun hq hbpp hlen hn, exec_scanline_reserved hft]
        exact faults_of_eq rfl
      · have e : specRows bpp (strideOf b.hdr bpp) z (n + 1) b.pixbuf =
            .ok (specBytes bpp (strideOf b.hdr bpp) z (n * rowBytesOf b.hdr bpp) (strideOf b.hdr bpp) pix) := by
          rw [specRows, hrows]; exact if_neg hft
        rw [e]
        exact step_afterRows_defined hrun hq hbpp hlen hn pix (Nat.le_of_not_lt hft)

end

/-! ### The flush -/

/-- The spec's flush, once the engine's checks are passed: the row loop, then the state after the flush (R110, R153). -/
theorem specReconstruct_rows {b : State} {z : List Byte} {bpp : Nat} (hflow : b.flow = .between)
    (hheight : b.hdr.height.toNat ≠ 0) (hsup : supported b.hdr = true) (hbpp : bpp = if b.hdr.colorType = 2 then 3 else 4)
    (hlen : z.length = b.hdr.height.toNat * rowBytesOf b.hdr bpp) (i : Instr) :
    specReconstruct z b.hdr b =
      (specRows bpp (strideOf b.hdr bpp) z b.hdr.height.toNat b.pixbuf).map fun pix =>
        endFlush (afterRows i z b bpp b.hdr.height.toNat pix) := by
  subst hbpp
  rw [specReconstruct, if_neg (not_not.mpr (supported_iff.mp hsup))]
  refine (if_neg (not_not.mpr hlen)).trans ?_
  simp only [strideOf]
  cases specRows _ _ z b.hdr.height.toNat b.pixbuf with
  | error k => rfl
  | ok pix =>
    simp only [Except.map, afterRows, engineEntered, endFlush, Cps.endRun, if_neg hheight, hflow, ← hlen]
    rfl

theorem specReconstruct_unsupported {h : ImageHeader} (hsup : supported h = false) (z : List Byte) (b : State) :
    specReconstruct z h b = .error .unsupportedFormat :=
  if_pos (mt supported_iff.mpr (Bool.eq_false_iff.mp hsup))

theorem specReconstruct_mismatch {h : ImageHeader} {z : List Byte} (hsup : supported h = true)
    (hlen : z.length ≠ h.height.toNat * rowBytesOf h (if h.colorType = 2 then 3 else 4)) (b : State) :
    specReconstruct z h b = .error .scanlineLengthMismatch :=
  (if_neg (not_not.mpr (supported_iff.mp hsup))).trans (if_pos hlen)

theorem specFlush_ok {b : State} {z : List Byte} (hz : inflate b.launch.inflate b.idatbuf = .ok z) :
    specFlush b = specReconstruct z b.hdr b := by rw [specFlush, hz]

/-- Either error of `Inflate` is `DecompressionError` (R143). -/
theorem specFlush_failed {b : State}
    (hz : inflate b.launch.inflate b.idatbuf = .dataError ∨ inflate b.launch.inflate b.idatbuf = .memoryError) :
    specFlush b = .error .decompressionError := by
  rcases hz with hz | hz <;> rw [specFlush, hz]

/-- From the engine's entry: the scanlines, then the pending chunk's class after the flush (R110, R153, R165). -/
theorem run_engine {b : State} {i : Instr} {tag : Bytes4} {c : Chunk} {z : List Byte} (hi : IsChunk i tag c)
    (hrun : b.phase = .run) (hq : NoReset b) (hflow : b.flow = .between) (hheight : b.hdr.height.toNat ≠ 0)
    (hsup : supported b.hdr = true)
    (hlen : z.length = b.hdr.height.toNat * rowBytesOf b.hdr (if b.hdr.colorType = 2 then 3 else 4)) :
    ∃ n, Realises (classBody i) (specReconstruct z b.hdr b) (Host.Core.run core n (engineEntered i z b)) := by
  obtain ⟨m, hm⟩ := run_rows (i := i) hrun hq (bppOf_supported hsup) hlen le_rfl
  rw [specReconstruct_rows hflow hheight hsup rfl hlen i]
  generalize (if b.hdr.colorType = 2 then 3 else 4) = bpp at hm ⊢
  cases hrows : specRows bpp (strideOf b.hdr bpp) z b.hdr.height.toNat b.pixbuf with
  | error k => rw [hrows] at hm; exact ⟨m, hm⟩
  | ok pix =>
    rw [hrows] at hm
    have hstep : step (afterRows i z b bpp b.hdr.height.toNat pix) = _ :=
      (stepResumesFlushingChunk (afterRows i z b bpp b.hdr.height.toNat pix) i hrun hq rfl rfl).trans
        (exec_chunk_resumed hi rfl)
    exact ⟨m + 1, ((run_add_of_next hm 1).trans (run_one _)).trans hstep⟩

/-- From the step that opens the flush: the spec's flush (R110), then the class of the chunk. -/
theorem run_flush {s b : State} {i : Instr} {tag : Bytes4} {c : Chunk} (hi : IsChunk i tag c)
    (hstep : step s = beginFlush i b) (hrun : b.phase = .run) (hq : NoReset b) (hflow : b.flow = .between)
    (hheight : b.hdr.height.toNat ≠ 0) :
    ∃ n, Realises (classBody i) (specFlush b) (Host.Core.run core (n + 1) s) := by
  have raisedAtOnce {k : ErrKind} {t : State} (hspec : specFlush b = .error k)
      (hraise : beginFlush i b = .next (raise k t)) :
      ∃ n, Realises (classBody i) (specFlush b) (Host.Core.run core (n + 1) s) := by
    refine ⟨0, ?_⟩
    rw [hspec]
    exact faults_of_eq ((run_one s).trans (hstep.trans hraise))
  cases hz : inflate b.launch.inflate b.idatbuf with
  | dataError => exact raisedAtOnce (specFlush_failed (.inl hz)) (beginFlush_failed (.inl hz) i)
  | memoryError => exact raisedAtOnce (specFlush_failed (.inr hz)) (beginFlush_failed (.inr hz) i)
  | ok z =>
    have hspec := specFlush_ok hz
    have hbegin := beginFlush_ok hz i
    cases hsup : supported b.hdr with
    | false => exact raisedAtOnce (hspec.trans (specReconstruct_unsupported hsup z b)) (hbegin.trans (if_pos hsup))
    | true =>
      have hbegin := hbegin.trans (if_neg (by rw [hsup]; nofun))
      by_cases hlen : z.length = b.hdr.height.toNat * rowBytesOf b.hdr (if b.hdr.colorType = 2 then 3 else 4)
      · obtain ⟨n, hn⟩ := run_engine hi hrun hq hflow hheight hsup hlen
        have hentered := hstep.trans (hbegin.trans (if_neg (not_not.mpr hlen)))
        exact ⟨n, by rw [hspec, run_succ_of_next (M := core) hentered]; exact hn⟩
      · exact raisedAtOnce (hspec.trans (specReconstruct_mismatch hsup hlen b)) (hbegin.trans (if_pos hlen))

/-- The flush leaves what the class of the chunk is chosen by (R73, R111). -/
theorem specFlush_frame {b t : State} (h : specFlush b = .ok t) :
    t.clen = b.clen ∧ t.cps.ihdrSeen = b.cps.ihdrSeen := by
  unfold specFlush specReconstruct at h
  split at h
  · cases h
  · cases h
  split at h
  · cases h
  dsimp only at h
  generalize (if b.hdr.colorType = 2 then 3 else 4) = bpp at h
  split at h
  · cases h
  split at h
  · cases h
  · cases h; exact ⟨rfl, rfl⟩

/-! ### The fetch -/

/-- `CLEN` of the chunk at `POS` (R71), of the bytes there are. -/
def clenAt (s : State) : Word :=
  be32 (s.launch.input.getD (s.pos + 0) 0) (s.launch.input.getD (s.pos + 1) 0) (s.launch.input.getD (s.pos + 2) 0)
    (s.launch.input.getD (s.pos + 3) 0)

/-- `CTYPE` of the chunk at `POS` (R71). -/
def tagAt (s : State) : Bytes4 :=
  ⟨s.launch.input.getD (s.pos + 4) 0, s.launch.input.getD (s.pos + 5) 0, s.launch.input.getD (s.pos + 6) 0,
    s.launch.input.getD (s.pos + 7) 0⟩

/-- The payload of the chunk at `POS` (R71). -/
def payloadAt (s : State) : List Byte := memRead s.launch.input (s.pos + 8) (clenAt s).toNat

/-- The two length tests of the fetch (R103, R219). -/
def ShortAt (s : State) : Prop :=
  s.launch.input.length - s.pos < 8 ∨ s.launch.input.length - s.pos - 8 < (clenAt s).toNat + 4

theorem four_bytes {bs : List Byte} (h : 4 ≤ bs.length) : ∃ r0 r1 r2 r3 rest, bs = r0 :: r1 :: r2 :: r3 :: rest :=
  match bs, h with
  | r0 :: r1 :: r2 :: r3 :: rest, _ => ⟨r0, r1, r2, r3, rest, rfl⟩

/-- Length and type are the first eight bytes at `POS`, the payload begins after them (R71). -/
theorem head_at_pos {s : State} {l0 l1 l2 l3 t0 t1 t2 t3 : Byte} {body : List Byte}
    (h : s.launch.input.drop s.pos = l0 :: l1 :: l2 :: l3 :: t0 :: t1 :: t2 :: t3 :: body) :
    clenAt s = be32 l0 l1 l2 l3 ∧ tagAt s = ⟨t0, t1, t2, t3⟩ ∧ s.launch.input.drop (s.pos + 8) = body := by
  have hget (k : Nat) : s.launch.input.getD (s.pos + k) 0 = (s.launch.input.drop s.pos).getD k 0 := by
    rw [List.getD_eq_getElem?_getD, List.getD_eq_getElem?_getD, List.getElem?_drop]
  simp only [clenAt, tagAt, hget, h]
  exact ⟨rfl, rfl, by rw [← List.drop_drop, h]; rfl⟩

theorem payloadAt_clen {s : State} (hshort : ¬ ShortAt s) (crc : Bytes4) :
    (⟨payloadAt s, crc⟩ : Chunk).clen = clenAt s := by
  obtain ⟨h8, hbody⟩ := not_or.mp hshort
  have hlen : (payloadAt s).length = (clenAt s).toNat := memRead_length (by omega)
  rw [Chunk.clen, hlen, BitVec.ofNat_toNat, BitVec.setWidth_eq]

theorem decode_at_pos {s : State} (hshort : ¬ ShortAt s) (seen : Bool) :
    ∃ crc rest, decode (.chunk seen) (s.launch.input.drop s.pos) =
      .ok (chunkClass seen (tagAt s) ⟨payloadAt s, crc⟩, rest) := by
  obtain ⟨h8, hrest⟩ := not_or.mp hshort
  have hlen := List.length_drop (l := s.launch.input) (i := s.pos)
  obtain ⟨l0, l1, l2, l3, bs, hbs⟩ := four_bytes (bs := s.launch.input.drop s.pos) (by omega)
  rw [hbs] at hlen
  simp only [List.length_cons] at hlen
  obtain ⟨t0, t1, t2, t3, body, rfl⟩ := four_bytes (bs := bs) (by omega)
  simp only [List.length_cons] at hlen
  obtain ⟨hclen, htag, hbody⟩ := head_at_pos hbs
  obtain ⟨r0, r1, r2, r3, rest, hr⟩ := four_bytes (bs := body.drop (clenAt s).toNat)
    (by rw [List.length_drop]; omega)
  refine ⟨⟨r0, r1, r2, r3⟩, rest, ?_⟩
  rw [hclen] at hr
  rw [hbs, payloadAt, memRead, hbody, htag, hclen]
  simp only [decode, decodeChunk, hr]

theorem decode_at_pos_short {s : State} (hshort : ShortAt s) (seen : Bool) :
    ∃ err, decode (.chunk seen) (s.launch.input.drop s.pos) = .error err := by
  cases hdec : decode (.chunk seen) (s.launch.input.drop s.pos) with
  | error err => exact ⟨err, rfl⟩
  | ok p =>
    obtain ⟨tag, c, hwf, -, hbs⟩ := decodeChunk_ok (i := p.1) (rest := p.2) hdec
    have hlen := congrArg List.length hbs
    rw [List.length_drop, List.length_append, chunkBytes_length] at hlen
    have hclen : clenAt s = c.clen := (head_at_pos hbs).1.trans (be32_bytes_of_word c.clen)
    rw [ShortAt, hclen, Chunk.clen_toNat hwf] at hshort
    omega

/-! ### The chunk step -/

theorem specChunkStep_atEnd {s : State} (hend : s.pos = s.launch.input.length) :
    specChunkStep s = .ok (endOfStream s) := if_pos hend

theorem specChunkStep_short {s : State} (hend : s.pos ≠ s.launch.input.length) (hshort : ShortAt s) :
    specChunkStep s = .error .truncatedChunk := by
  refine (if_neg hend).trans ?_
  by_cases h8 : s.launch.input.length - s.pos < 8
  · exact if_pos h8
  · exact (if_neg h8).trans (if_pos (hshort.resolve_left h8))

section
variable {s : State} (hend : s.pos ≠ s.launch.input.length) (hshort : ¬ ShortAt s) (crc : Bytes4)
include hend hshort

/-- No run is pending, or the chunk is an `IDAT`: the class follows the fetch. -/
theorem specChunkStep_fetched (hrun : s.cps.inRun = false ∨ tagAt s = Config.tagIDAT) :
    specChunkStep s =
      specClass (clenAt s) (tagAt s) (payloadAt s) (latchChunk (tagAt s) ⟨payloadAt s, crc⟩ s) := by
  obtain ⟨h8, hbody⟩ := not_or.mp hshort
  have hno : ¬ (s.cps.inRun = true ∧ tagAt s ≠ Config.tagIDAT) := by
    rw [not_and_or, Bool.not_eq_true, not_not]; exact hrun
  rw [latchChunk, payloadAt_clen hshort]
  exact (if_neg hend).trans ((if_neg h8).trans ((if_neg hbody).trans (if_neg hno)))

/-- The chunk ends a run: the flush comes between the fetch and the class. -/
theorem specChunkStep_runEnd (hin : s.cps.inRun = true) (htag : tagAt s ≠ Config.tagIDAT) :
    specChunkStep s =
      (specFlush (latchChunk (tagAt s) ⟨payloadAt s, crc⟩ s)).bind (specClass (clenAt s) (tagAt s) (payloadAt s)) := by
  obtain ⟨h8, hbody⟩ := not_or.mp hshort
  rw [latchChunk, payloadAt_clen hshort]
  refine (if_neg hend).trans ((if_neg h8).trans ((if_neg hbody).trans ((if_pos ⟨hin, htag⟩).trans ?_)))
  split <;> next hflush =>
    exact (congrArg (Except.bind · (specClass (clenAt s) (tagAt s) (payloadAt s))) hflush).symm

end

/-- The machine runs the indivisible chunk step of R105. -/
theorem run_chunkStep {s : State} (hinv : Inv s) (hrun : s.phase = .run) (hflow : s.flow = .between) (hpos : s.pos ≠ 0)
    (hq : NoReset s) : ∃ n, Realises .next (specChunkStep s) (Host.Core.run core (n + 1) s) := by
  have l := inv_live hinv hrun
  by_cases hend : s.pos = s.launch.input.length
  · rw [specChunkStep_atEnd hend]
    exact ⟨0, (run_one s).trans (endOfStreamTerminatesWithoutFlush s hrun hq hflow hpos hend)⟩
  by_cases hshort : ShortAt s
  · obtain ⟨err, hdec⟩ := decode_at_pos_short hshort s.cps.ihdrSeen
    have hstep := step_between hrun hq hflow
    rw [chunkAction_truncated hpos hend hdec] at hstep
    rw [specChunkStep_short hend hshort]
    exact ⟨0, faults_of_eq ((run_one s).trans hstep)⟩
  obtain ⟨crc, rest, hdec⟩ := decode_at_pos hshort s.cps.ihdrSeen
  have hi := isChunk_chunkClass s.cps.ihdrSeen (tagAt s) ⟨payloadAt s, crc⟩
  have hclen := payloadAt_clen hshort crc
  have hclass (b : State) (hb : b.clen = clenAt s) (hseen : b.cps.ihdrSeen = s.cps.ihdrSeen) :
      Realises .next (specClass (clenAt s) (tagAt s) (payloadAt s) b)
        (classBody (chunkClass s.cps.ihdrSeen (tagAt s) ⟨payloadAt s, crc⟩) b) := by
    have h := classBody_realises (tagAt s) (c := ⟨payloadAt s, crc⟩) (b := b) (hb.trans hclen.symm)
    rwa [hclen, hseen] at h
  have hstep := stepRunsDecodedChunk s _ rest hrun hq hflow hpos (lt_of_le_of_ne l.pos_le hend) hdec
  by_cases hrunEnd : s.cps.inRun = false ∨ tagAt s = Config.tagIDAT
  · rw [exec_chunk_fetched hi hflow hrunEnd] at hstep
    refine ⟨0, ?_⟩
    rw [run_one, hstep, specChunkStep_fetched hend hshort crc hrunEnd]
    exact hclass _ hclen rfl
  · obtain ⟨hin, htag⟩ : s.cps.inRun = true ∧ tagAt s ≠ Config.tagIDAT := by simpa using hrunEnd
    rw [exec_chunk_runEnd hi hflow hin htag] at hstep
    have hheight : s.hdr.height.toNat ≠ 0 := fun h0 =>
      (l.hdr_accepted (ihdrSeen_of_inRun l hin)).2 (BitVec.eq_of_toNat_eq h0)
    obtain ⟨n, hn⟩ := run_flush hi hstep hrun hq hflow hheight
    refine ⟨n, ?_⟩
    rw [specChunkStep_runEnd hend hshort crc hin htag]
    cases hflush : specFlush (latchChunk (tagAt s) ⟨payloadAt s, crc⟩ s) with
    | error k => rw [hflush] at hn; exact hn
    | ok t =>
      rw [hflush] at hn
      obtain ⟨htclen, hseen⟩ := specFlush_frame hflush
      have hr : Host.Core.run core (n + 1) s = _ := hn
      rw [hr]
      exact hclass t (htclen.trans hclen) hseen

/-- Settles O8: the two cases of the result are those of `Realises`. -/
theorem subStepsMakeOneChunkStep : Obligations.SubStepsMakeOneChunkStep := by
  intro s hinv hrun hflow hpos hq
  obtain ⟨n, hn⟩ := run_chunkStep hinv hrun hflow hpos hq
  cases hspec : specChunkStep s with
  | ok t => rw [hspec] at hn; exact ⟨n, hn⟩
  | error k => rw [hspec] at hn; exact ⟨n, hn⟩

end Sys2Proof.Proofs
end

section
/-! PROOF. The scanline family (O20, O37 to O43): the step that runs a scanline, the rows of the five predictors byte by byte, and
the predictor of `PAETH`. -/

namespace Sys2Proof.Proofs

open Sys2Proof Sys2Proof.Machine Sys2Proof.Safety

/-! ### The step inside a flush, and the reserved filter types -/

/-- Settles O20: inside a flush, while a scanline is left, the one at `ZIDX` is fetched. -/
theorem stepRunsDecodedScanline : Obligations.StepRunsDecodedScanline := by
  intro s j i bpp rest hrun hq hflow hrow hbpp hdec
  rw [step_flushing hrun hq hflow, flushAction_scanline hrow hbpp hdec]; rfl

/-- Settles O42: the exception is all that the instruction does. -/
theorem reservedFilterTypeFaults : Obligations.ReservedFilterTypeFaults := fun _ _ _ _ => faults_of_eq rfl

/-! ### A reconstructed byte, and the row of `NONE` -/

theorem reconstructByte_toNat (f : Byte) (n : Nat) : (reconstructByte f n).toNat = (f.toNat + n) % 256 := by
  simp [reconstructByte]

theorem reconstructByte_zero (f : Byte) : reconstructByte f 0 = f :=
  BitVec.eq_of_toNat_eq ((reconstructByte_toNat f 0).trans (Nat.mod_eq_of_lt f.isLt))

theorem appendByte_predNone (bpp stride : Nat) (pix : List Byte) (f : Byte) :
    appendByte bpp stride predNone pix f = pix ++ [f] := by
  rw [appendByte, memAppend, predNone, reconstructByte_zero]

theorem reconstructRow_predNone (bpp stride : Nat) (data pix : List Byte) :
    reconstructRow bpp stride predNone data pix = pix ++ data := by
  induction data generalizing pix with
  | nil => simp
  | cons f data ih => rw [reconstructRow_cons, appendByte_predNone, ih, List.append_assoc, List.singleton_append]

/-- Settles O37: with the predictor 0 every byte is appended as it is. -/
theorem noneRowIsCopied : Obligations.NoneRowIsCopied := by
  intro s data hct
  have hbpp : ∃ bpp, bppOf s.hdr.colorType = some bpp :=
    hct.elim (fun h => ⟨3, bppOf_eq_some.mpr (.inl ⟨h, rfl⟩)⟩) (fun h => ⟨4, bppOf_eq_some.mpr (.inr ⟨h, rfl⟩)⟩)
  obtain ⟨bpp, hbpp⟩ := hbpp
  have h : exec (.ftNone data) s = _ := execRow_eq (ftype := 0) (pred := predNone) (data := data) hbpp
  rw [h, reconstructRow_predNone, Nat.add_assoc]

/-! ### The neighbours of a byte lie before it

At index `i = len(pix)` each neighbour is 0 by an edge rule or lies at an index below `i`, so what is appended later does not
change it (R155 to R158). -/

section
variable {bpp stride : Nat} (pix more : List Byte)

theorem leftAt_append (hbpp : 0 < bpp) :
    leftAt bpp stride (pix ++ more) pix.length = (leftOf bpp stride pix).toNat := by
  rw [← leftAt_length, leftAt, leftAt]
  split
  · rfl
  next hedge =>
    have hle := Nat.mod_le pix.length stride
    rw [List.getD_append _ _ _ _ (by omega)]

theorem upAt_append (hstride : 0 < stride) : upAt stride (pix ++ more) pix.length = (upOf stride pix).toNat := by
  rw [← upAt_length, upAt, upAt]
  split
  · rfl
  next hedge => rw [List.getD_append _ _ _ _ (by omega)]

theorem upLeftAt_append (hstride : 0 < stride) :
    upLeftAt bpp stride (pix ++ more) pix.length = (upLeftOf bpp stride pix).toNat := by
  rw [← upLeftAt_length, upLeftAt, upLeftAt]
  split
  · rfl
  next hedge => rw [List.getD_append _ _ _ _ (by omega)]

end

/-! ### A row with a predictor -/

/-- Byte `k` of the row is computed when `pix` and the `k` bytes before it are there. -/
theorem reconstructRow_at {bpp stride : Nat} {pred : Predictor} {data pix : List Byte} {k : Nat} (hk : k < data.length) :
    ∃ done more, done.length = pix.length + k ∧
      reconstructRow bpp stride pred data pix = done ++
        reconstructByte (data.getD k 0) (pred (leftOf bpp stride done) (upOf stride done) (upLeftOf bpp stride done)) ::
          more := by
  have hsplit : data = data.take k ++ data.getD k 0 :: data.drop (k + 1) := by
    rw [List.getD_eq_getElem _ _ hk, List.cons_getElem_drop_succ, List.take_append_drop]
  obtain ⟨more, hmore, -⟩ := reconstructRow_extends bpp stride pred (data.drop (k + 1))
    (appendByte bpp stride pred (reconstructRow bpp stride pred (data.take k) pix) (data.getD k 0))
  refine ⟨reconstructRow bpp stride pred (data.take k) pix, more, by simp [hk.le], ?_⟩
  rw [appendByte, memAppend, List.append_assoc, List.singleton_append] at hmore
  rw [← hmore, ← memAppend, ← appendByte, ← reconstructRow_cons, ← reconstructRow_append, ← hsplit]

/-- A row of the machine, whose predictor is `p` on the bytes' values, is a row of `p` (R155, R160). -/
theorem reconstructRow_rowAppended {bpp stride : Nat} {pred : Predictor} {p : Nat → Nat → Nat → Nat}
    (hpred : ∀ left up upLeft, pred left up upLeft = p left.toNat up.toNat upLeft.toNat) (hbpp : 0 < bpp)
    (hstride : 0 < stride) (data pix : List Byte) :
    RowAppended bpp stride p data pix (reconstructRow bpp stride pred data pix) := by
  refine ⟨reconstructRow_length .., fun i hi => ?_, fun k hk => ?_⟩
  · obtain ⟨new, hnew, -⟩ := reconstructRow_extends bpp stride pred data pix
    rw [hnew, List.getElem?_append_left hi]
  · obtain ⟨done, more, hlen, hrow⟩ := reconstructRow_at (bpp := bpp) (stride := stride) (pred := pred) (pix := pix) hk
    rw [hrow, ← hlen, leftAt_append done _ hbpp, upAt_append done _ hstride, upLeftAt_append done _ hstride, ← hpred,
      ← reconstructByte_toNat]
    simp

/-- A scanline instruction whose predictor is `p` appends a row of `p`, in an image that has a width (R150, R154). -/
theorem execRow_rowAppended {ftype : Byte} {pred : Predictor} {p : Nat → Nat → Nat → Nat}
    (hpred : ∀ left up upLeft, pred left up upLeft = p left.toNat up.toNat upLeft.toNat) {s : State} {bpp : Nat}
    (data : List Byte) (hwidth : s.hdr.width ≠ 0)
    (hct : s.hdr.colorType = 2 ∧ bpp = 3 ∨ s.hdr.colorType = 6 ∧ bpp = 4) :
    ∃ new, RowAppended bpp (s.hdr.width.toNat * bpp) p data s.pixbuf new ∧
      execRow ftype pred data s = .next { s with
        ft := ftype, zidx := s.zidx + 1 + data.length, row := s.row + 1
        oidx := s.pixbuf.length + data.length, pixbuf := new } := by
  have hbpp : bppOf s.hdr.colorType = some bpp := bppOf_eq_some.mpr hct
  have hpos := bppOf_pos hbpp
  have hwidth : s.hdr.width.toNat ≠ 0 := fun h => hwidth (BitVec.eq_of_toNat_eq h)
  refine ⟨_, reconstructRow_rowAppended hpred hpos (Nat.mul_pos (Nat.pos_of_ne_zero hwidth) hpos) data s.pixbuf, ?_⟩
  rw [execRow_eq hbpp, strideOf, Nat.add_assoc]

/-- Settles O38: a row of `predSub`. -/
theorem subRowAddsLeft : Obligations.SubRowAddsLeft :=
  fun _ _ data => execRow_rowAppended (pred := predSub) (fun _ _ _ => rfl) data

/-- Settles O39: a row of `predUp`. -/
theorem upRowAddsUp : Obligations.UpRowAddsUp :=
  fun _ _ data => execRow_rowAppended (pred := predUp) (fun _ _ _ => rfl) data

/-- Settles O40: a row of `predAverage`, whose sum is taken on naturals. -/
theorem averageRowAddsWideMean : Obligations.AverageRowAddsWideMean :=
  fun _ _ data => execRow_rowAppended (pred := predAverage) (fun _ _ _ => rfl) data

/-- Settles O41: a row of `predPaeth`; `calcPaeth` is `paethNat` on the bytes' values. -/
theorem paethRowAddsNearest : Obligations.PaethRowAddsNearest :=
  fun _ _ data => execRow_rowAppended (pred := predPaeth) calcPaeth_toNat data

/-! ### `calcPaeth` -/

/-- The distance of `x` from `p = a + b - c` (R168). -/
def paethDistance (a b c x : Byte) : Int := |(a.toNat : Int) + b.toNat - c.toNat - x.toNat|

/-- `calcPaeth` compares the distances of its three arguments. -/
theorem calcPaeth_eq (a b c : Byte) :
    calcPaeth a b c =
      if paethDistance a b c a ≤ paethDistance a b c b ∧ paethDistance a b c a ≤ paethDistance a b c c then a
      else if paethDistance a b c b ≤ paethDistance a b c c then b
      else c := by
  simp only [calcPaeth, paethDistance, Int.abs_eq_natAbs, Nat.cast_le]

/-- The distances, with the argument itself cancelled. -/
theorem paethDistance_args (a b c : Byte) :
    paethDistance a b c a = |(b.toNat : Int) - c.toNat| ∧ paethDistance a b c b = |(a.toNat : Int) - c.toNat| ∧
      paethDistance a b c c = |(a.toNat : Int) + b.toNat - 2 * c.toNat| :=
  ⟨congrArg abs (by ring), congrArg abs (by ring), congrArg abs (by ring)⟩

theorem calcPaeth_nearest (a b c : Byte) :
    paethDistance a b c (calcPaeth a b c) ≤ paethDistance a b c a ∧
      paethDistance a b c (calcPaeth a b c) ≤ paethDistance a b c b ∧
      paethDistance a b c (calcPaeth a b c) ≤ paethDistance a b c c := by
  rw [calcPaeth_eq]
  split
  · next ha => exact ⟨le_rfl, ha⟩
  split <;> omega

/-- When the second and third argument are equal, `p` is the first. -/
theorem calcPaeth_of_b_eq_c (a b : Byte) : calcPaeth a b b = a := by
  have ha : paethDistance a b b a = 0 := by simp [paethDistance]
  rw [calcPaeth_eq, ha]
  exact if_pos ⟨abs_nonneg _, abs_nonneg _⟩

/-- When the first and third argument are equal, `p` is the second. -/
theorem calcPaeth_of_a_eq_c (a b : Byte) : calcPaeth a b a = b := by
  have hb : paethDistance a b a b = 0 := by simp [paethDistance]
  have hc : paethDistance a b a a = 0 → a = b := fun h => by
    rw [(paethDistance_args a b a).1, abs_eq_zero] at h
    exact BitVec.eq_of_toNat_eq (by omega)
  rw [calcPaeth_eq, hb]
  split
  · next h => exact hc (le_antisymm h.1 (abs_nonneg _))
  · exact if_pos (abs_nonneg _)

/-- Settles O43: the comparisons of the distances decide, and a distance of 0 is the least. -/
theorem calcPaethPicksNearest : Obligations.CalcPaethPicksNearest := by
  intro a b c p pa pb pc
  have heq : calcPaeth a b c = if pa ≤ pb ∧ pa ≤ pc then a else if pb ≤ pc then b else c := calcPaeth_eq a b c
  obtain ⟨hnearA, hnearB, hnearC⟩ := calcPaeth_nearest a b c
  obtain ⟨ha, hb, hc⟩ := paethDistance_args a b c
  exact ⟨fun hab hac => heq.trans (if_pos ⟨hab, hac⟩),
    fun hna hbc => heq.trans ((if_neg hna).trans (if_pos hbc)),
    fun hna hnb => heq.trans ((if_neg hna).trans (if_neg hnb)),
    hnearA, hnearB, hnearC, ha, hb, hc,
    calcPaeth_of_b_eq_c a a, calcPaeth_of_b_eq_c a 0, calcPaeth_of_a_eq_c 0 b⟩

end Sys2Proof.Proofs
end

section
/-! PROOF. The host family (O44 to O50, O52, O53): the gates of the result operations, `START`, the delivered copies, the status
reads, and the vertical flip unit by unit. -/

namespace Sys2Proof.Proofs

open Sys2Proof Sys2Proof.Machine Sys2Proof.Safety

/-! ### The gates (R191, R192, R195) -/

theorem whenDone_of_done {k : State → Result} {s : State} (hdone : s.phase = .done) : whenDone k s = k s :=
  if_pos (beq_iff_eq.mpr hdone)

theorem whenDone_of_ne_done {k : State → Result} {s : State} (hdone : s.phase ≠ .done) :
    whenDone k s = .refused .resultUnavailable :=
  if_neg (mt beq_iff_eq.mp hdone)

theorem whenHeader_of_seen {k : ImageHeader → State → Result} {s : State} (hseen : s.cps.ihdrSeen = true) :
    whenHeader k s = k s.hdr s :=
  if_pos hseen

theorem whenHeader_of_unseen {k : ImageHeader → State → Result} {s : State} (hseen : s.cps.ihdrSeen = false) :
    whenHeader k s = .refused .headerNotParsed :=
  if_neg (Bool.eq_false_iff.mp hseen)

/-- Settles O52: each of the four operations stands behind the gate of `DONE`. -/
theorem resultsOnlyInDone : Obligations.ResultsOnlyInDone := fun s w h hdone =>
  ⟨show execGetHeader s = _ from whenDone_of_ne_done hdone,
    show execGetImageData s = _ from whenDone_of_ne_done hdone,
    show execCompareSize w h s = _ from whenDone_of_ne_done hdone,
    show execReverseImage s = _ from whenDone_of_ne_done hdone⟩

/-! ### `START` -/

/-- Settles O44: the phase is tested first, then the stream. -/
theorem startOpensTheLaunch : Obligations.StartOpensTheLaunch := by
  intro s p
  refine ⟨fun hidle hok => ?_, fun hidle hok => ?_, fun hidle => if_pos hidle⟩
  · have hok : ¬ p.streamOk = false := by rw [hok]; nofun
    exact (if_neg (not_not.mpr hidle)).trans (if_neg hok)
  · exact faults_of_eq ((if_neg (not_not.mpr hidle)).trans (if_pos hok))

/-! ### The delivered copies -/

/-- Settles O45: in `DONE` the gate of the header decides. -/
theorem getHeaderDeliversCopy : Obligations.GetHeaderDeliversCopy := fun _ hdone =>
  ⟨fun hseen => (whenDone_of_done hdone).trans (whenHeader_of_seen hseen),
    fun hseen => (whenDone_of_done hdone).trans (whenHeader_of_unseen hseen)⟩

/-- Settles O46: `DONE` is the only gate. -/
theorem getImageDataDeliversCopy : Obligations.GetImageDataDeliversCopy := fun s hdone =>
  show execGetImageData s = _ from whenDone_of_done hdone

theorem execCompareSize_seen {w h : Word} {s : State} {r : SizeResult} (hdone : s.phase = .done)
    (hseen : s.cps.ihdrSeen = true) (hr : sizeCompare w h s.hdr = r) :
    execCompareSize w h s = .next (deliver (.size r) s) :=
  hr ▸ (whenDone_of_done hdone).trans (whenHeader_of_seen hseen)

/-- Settles O47: the delivered result is `sizeCompare`, whose test is that both dimensions match. -/
theorem compareSizeMatchesBoth : Obligations.CompareSizeMatchesBoth := fun _ _ _ hdone =>
  ⟨fun hseen => ⟨fun heq => execCompareSize_seen hdone hseen (if_pos heq),
      fun hne => execCompareSize_seen hdone hseen (if_neg hne)⟩,
    fun hseen => (whenDone_of_done hdone).trans (whenHeader_of_unseen hseen)⟩

/-! ### The status reads -/

/-- Settles O53: outside `RUN` the oldest transaction is taken; the reads of `END` and `CPS` test the phase. -/
theorem statusReadsByPhase : Obligations.StatusReadsByPhase := by
  intro s q hrun
  refine ⟨fun hq => step_host hrun hq nofun, fun hq => step_host hrun hq nofun,
    fun hfault hq => ?_, fun hfault hq => ?_, fun hfault hq => ?_, fun hfault hq => ?_⟩
  · exact (step_host hrun hq nofun).trans (if_neg hfault)
  · exact (step_host hrun hq nofun).trans (if_neg hfault)
  · exact (step_host hrun hq nofun).trans (if_pos hfault)
  · exact (step_host hrun hq nofun).trans (if_pos hfault)

/-! ### The vertical flip, unit by unit (R194)

Unit `u` of a buffer is its four bytes from `u * 4` on; unit `y * width + x` is the pixel of row `y` and column `x`. -/

theorem memRead_getElem? {p : List Byte} {a n i : Nat} (hi : i < n) : (memRead p a n)[i]? = p[a + i]? := by
  rw [memRead, List.getElem?_take_of_lt hi, List.getElem?_drop]

/-- Both units are read from the buffer as it was, so `u = v` is no special case. -/
theorem swapUnits_getElem? {u v w j : Nat} {pix : List Byte} (hu : u * 4 + 4 ≤ pix.length) (hv : v * 4 + 4 ≤ pix.length)
    (hj : j < 4) : (swapUnits (u * 4) (v * 4) pix)[w * 4 + j]? = pix[Equiv.swap u v w * 4 + j]? := by
  have hru : (memRead pix (u * 4) 4).length = 4 := memRead_length hu
  have hrv : (memRead pix (v * 4) 4).length = 4 := memRead_length hv
  have hlen : (memWrite pix (u * 4) (memRead pix (v * 4) 4)).length = pix.length := memWrite_length (by rw [hrv]; exact hu)
  have hsub (a : Nat) : a * 4 + j - a * 4 = j := Nat.add_sub_cancel_left ..
  rw [swapUnits, memWrite_getElem? (by rw [hru, hlen]; exact hv), memWrite_getElem? (by rw [hrv]; exact hu), hru, hrv]
  by_cases hwv : w = v
  · subst hwv
    rw [if_pos (by omega), hsub, memRead_getElem? hj, Equiv.swap_apply_right]
  by_cases hwu : w = u
  · subst hwu
    rw [if_neg (by omega), if_pos (by omega), hsub, memRead_getElem? hj, Equiv.swap_apply_left]
  · rw [if_neg (by omega), if_neg (by omega), Equiv.swap_apply_of_ne_of_ne hwu hwv]

/-- Row and column of a unit are unique. -/
theorem unit_inj {width y x y' x' : Nat} (hx : x < width) (hx' : x' < width) :
    y * width + x = y' * width + x' ↔ y = y' ∧ x = x' := by
  refine ⟨fun h => ?_, fun ⟨hy, hx⟩ => by rw [hy, hx]⟩
  have hdiv (y x : Nat) (hx : x < width) : (y * width + x) / width = y := by
    rw [Nat.mul_comm, Nat.mul_add_div (by omega), Nat.div_eq_of_lt hx, Nat.add_zero]
  have hy : y = y' := by rw [← hdiv y x hx, h, hdiv y' x' hx']
  subst hy
  exact ⟨rfl, Nat.add_left_cancel h⟩

/-- A swap of two units in one column is a swap of their rows there, and leaves the other columns. -/
theorem swap_unit {width k k' y n x : Nat} (hn : n < width) (hx : x < width) :
    Equiv.swap (k * width + n) (k' * width + n) (y * width + x) =
      (if x = n then Equiv.swap k k' y else y) * width + x := by
  simp only [Equiv.swap_apply_def, unit_inj hx hn]
  split_ifs <;> simp_all

/-- Every byte of an image stands in one of its rows. -/
theorem exists_row_of_byte {width height i : Nat} (hi : i < width * height * 4) :
    ∃ y k, y < height ∧ k < width * 4 ∧ i = y * (width * 4) + k := by
  rw [Nat.mul_right_comm] at hi
  exact ⟨i / (width * 4), i % (width * 4), Nat.div_lt_of_lt_mul hi,
    Nat.mod_lt _ (Nat.pos_of_mul_pos_right (Nat.zero_lt_of_lt hi)), (Nat.div_add_mod' ..).symm⟩

section
variable {width height : Nat} {pix : List Byte} (hlen : pix.length = width * height * 4)
include hlen

/-- The inner loop has swapped the two rows in the first `n` columns. -/
theorem swapRowPair_getElem? {k k' : Nat} (hk : k < height) (hk' : k' < height) {n x j : Nat} (hn : n ≤ width)
    (hx : x < width) (hj : j < 4) (y : Nat) :
    (swapRowPair width k k' n pix)[(y * width + x) * 4 + j]? =
      pix[((if x < n then Equiv.swap k k' y else y) * width + x) * 4 + j]? := by
  induction n generalizing y with
  | zero => rfl
  | succ n ih =>
    have hl : (swapRowPair width k k' n pix).length = width * height * 4 :=
      (swapRowPair_length hk hk' hlen (Nat.le_of_succ_le hn)).trans hlen
    rw [swapRowPair, swapUnits_getElem? (by rw [hl]; exact unit_end_le hk hn) (by rw [hl]; exact unit_end_le hk' hn) hj,
      swap_unit hn hx, ih (Nat.le_of_succ_le hn)]
    by_cases hxn : x = n
    · rw [if_pos hxn, if_neg (by omega), if_pos (by omega)]
    · rw [if_neg hxn]
      simp only [show x < n + 1 ↔ x < n by omega]

/-- The outer loop has turned over the first `n` rows and their mirror rows. -/
theorem swapRows_getElem? {n y x j : Nat} (hn : n ≤ height / 2) (hy : y < height) (hx : x < width) (hj : j < 4) :
    (swapRows width height n pix)[(y * width + x) * 4 + j]? =
      pix[((if y < n ∨ height - 1 - y < n then height - 1 - y else y) * width + x) * 4 + j]? := by
  induction n generalizing y with
  | zero => simp [swapRows]
  | succ n ih =>
    have hl : (swapRows width height n pix).length = width * height * 4 :=
      (swapRows_length hlen (by omega)).trans hlen
    rw [swapRows, swapRowPair_getElem? hl (by omega) (by omega) le_rfl hx hj, if_pos hx]
    by_cases hyn : y = n
    · rw [hyn, Equiv.swap_apply_left, ih (by omega) (by omega), if_neg (by omega), if_pos (by omega)]
    by_cases hym : y = height - 1 - n
    · rw [hym, Equiv.swap_apply_right, ih (by omega) (by omega), if_neg (by omega), if_pos (by omega)]
      rw [Nat.sub_sub_self (by omega)]
    · rw [Equiv.swap_apply_of_ne_of_ne hyn hym, ih (by omega) hy]
      simp only [show y < n + 1 ∨ height - 1 - y < n + 1 ↔ y < n ∨ height - 1 - y < n by omega]

/-- The flip, byte by byte within a row. The middle row of an odd height, which no swap touches, is its own mirror. -/
theorem swapRows_half_getElem? {y k : Nat} (hy : y < height) (hk : k < width * 4) :
    (swapRows width height (height / 2) pix)[y * (width * 4) + k]? = pix[(height - 1 - y) * (width * 4) + k]? := by
  have haddr (y : Nat) : y * (width * 4) + k = (y * width + k / 4) * 4 + k % 4 := by
    rw [← Nat.mul_assoc]; omega
  have hmirror : (if y < height / 2 ∨ height - 1 - y < height / 2 then height - 1 - y else y) = height - 1 - y := by
    split <;> omega
  rw [haddr, haddr, swapRows_getElem? hlen le_rfl hy (by omega) (by omega), hmirror]

theorem swapRows_half_twice :
    swapRows width height (height / 2) (swapRows width height (height / 2) pix) = pix := by
  have hhalf := Nat.div_le_self height 2
  have hl := (swapRows_length hlen hhalf).trans hlen
  refine List.ext_getElem? fun i => ?_
  by_cases hi : i < pix.length
  · obtain ⟨y, k, hy, hk, rfl⟩ := exists_row_of_byte (hlen ▸ hi)
    rw [swapRows_half_getElem? hl hy hk, swapRows_half_getElem? hlen (by omega) hk, Nat.sub_sub_self (by omega)]
  · rw [List.getElem?_eq_none (by rw [swapRows_length hl hhalf, hl, ← hlen]; omega), List.getElem?_eq_none (by omega)]

end

/-! ### `reverseImage` -/

theorem execReverseImage_flips {s : State} (hdone : s.phase = .done) (hc : s.complete = true)
    (hbpp : bppOf s.hdr.colorType = some 4) :
    execReverseImage s = .next { s with
      pixbuf := swapRows s.hdr.width.toNat s.hdr.height.toNat (s.hdr.height.toNat / 2) s.pixbuf } :=
  (whenDone_of_done hdone).trans (if_pos ⟨hc, hbpp⟩)

/-- Settles O50: an incomplete image fails the first test, colour type 2 has 3 bytes per pixel. -/
theorem reverseImageRefusedOtherwise : Obligations.ReverseImageRefusedOtherwise := by
  intro s hdone hcase
  have hno : ¬ (s.complete = true ∧ bppOf s.hdr.colorType = some 4) := by
    rintro ⟨hc, hbpp⟩
    obtain hinc | hct := hcase
    · exact Bool.eq_false_iff.mp hinc hc
    · rw [hct] at hbpp
      exact absurd hbpp (by decide)
  show execReverseImage s = _
  exact (whenDone_of_done hdone).trans (if_neg hno)

/-- Settles O48: byte `k` of row `y` is byte `k` of the mirror row. -/
theorem reverseImageFlipsRows : Obligations.ReverseImageFlipsRows := by
  intro s hdone hseen hct hdepth hlen
  have hbpp : bppOf s.hdr.colorType = some 4 := bppOf_eq_some.mpr (.inr ⟨hct, rfl⟩)
  have hc : s.complete = true := complete_iff.mpr ⟨4, hbpp, hdone, hseen, hdepth, hlen⟩
  exact ⟨_, execReverseImage_flips hdone hc hbpp, swapRows_length hlen (Nat.div_le_self _ 2),
    fun _ _ hy hk => swapRows_half_getElem? hlen hy hk⟩

/-- A next state is the flip of an image for which the operation is defined. -/
theorem execReverseImage_next {s t : State} (h : execReverseImage s = .next t) :
    s.phase = .done ∧ s.complete = true ∧ bppOf s.hdr.colorType = some 4 ∧
      t = { s with pixbuf := swapRows s.hdr.width.toNat s.hdr.height.toNat (s.hdr.height.toNat / 2) s.pixbuf } := by
  obtain ⟨hdone, h⟩ := whenDone_next h
  split at h
  · next hc => cases h; exact ⟨hdone, hc.1, hc.2, rfl⟩
  · cases h

/-- `COMPLETE` speaks of `PIXBUF` only by its length. -/
theorem complete_of_length_eq {s : State} (hc : s.complete = true) {pix : List Byte}
    (hlen : pix.length = s.pixbuf.length) : ({ s with pixbuf := pix } : State).complete = true := by
  obtain ⟨bpp, hbpp, hdone, hseen, hdepth, hwhole⟩ := complete_iff.mp hc
  exact complete_iff.mpr ⟨bpp, hbpp, hdone, hseen, hdepth, hlen.trans hwhole⟩

/-- Settles O49: the first call keeps the image complete, and the flip undoes itself. -/
theorem reverseImageTwiceRestores : Obligations.ReverseImageTwiceRestores := by
  intro s t h
  obtain ⟨hdone, hc, hbpp, rfl⟩ := execReverseImage_next h
  have hlen := pixbuf_length_of_complete hc hbpp
  have hc' := complete_of_length_eq hc (swapRows_length hlen (Nat.div_le_self s.hdr.height.toNat 2))
  refine Eq.trans (execReverseImage_flips hdone hc' hbpp) ?_
  rw [swapRows_half_twice hlen]

end Sys2Proof.Proofs
end

section
/-! PROOF. The exceptions and the status codes (O24, O28, O54): the two length errors of a chunk, and the numbers of the status
registers. -/

namespace Sys2Proof.Proofs

open Sys2Proof Sys2Proof.Machine Sys2Proof.Safety

/-! ### A chunk the stream does not hold whole (R219) -/

/-- Settles O24: the two length tests are `ShortAt`, which decides whether a chunk is decoded at `POS`. -/
theorem truncatedChunkExactlyWhenShort : Obligations.TruncatedChunkExactlyWhenShort := by
  intro s hrun hq hflow hpos hlt
  constructor
  · intro (hshort : ShortAt s)
    obtain ⟨err, hdec⟩ := decode_at_pos_short hshort s.cps.ihdrSeen
    have hstep := step_between hrun hq hflow
    rw [chunkAction_truncated hpos hlt.ne hdec] at hstep
    exact faults_of_eq hstep
  · intro (hshort : ¬ ShortAt s)
    obtain ⟨crc, rest, hdec⟩ := decode_at_pos hshort s.cps.ihdrSeen
    exact ⟨_, rest, hdec, stepRunsDecodedChunk s _ rest hrun hq hflow hpos hlt hdec⟩

/-! ### A first `IHDR` of the wrong length (R220) -/

theorem ihdrBody_badLength {c : Chunk} {b : State} (hseen : b.cps.ihdrSeen = false) (hlen : b.clen ≠ Config.ihdrLength) :
    ihdrBody c b = .next (raise .badHeaderLength b) := by
  rw [ihdrBody, if_neg (by rw [hseen]; nofun), if_pos hlen]

/-- A payload whose length is a 32-bit value has `CLEN = 13` only when it is 13 bytes long. -/
theorem clen_ne_ihdrLength {c : Chunk} (hwf : c.wf = true) (hlen : c.payload.length ≠ 13) : c.clen ≠ Config.ihdrLength :=
  fun h => hlen ((Chunk.clen_toNat hwf).symm.trans (congrArg BitVec.toNat h))

/-- Settles O28: with no run pending the class follows the fetch, and the length is its first check. -/
theorem firstIhdrNeedsThirteenBytes : Obligations.FirstIhdrNeedsThirteenBytes := by
  intro s c hwf hflow hseen hin hlen
  exact faults_of_eq ((exec_chunk_fetched (.ihdr c) hflow (.inl hin)).trans
    (ihdrBody_badLength hseen (clen_ne_ihdrLength hwf hlen)))

/-! ### The codes of the status registers (R11, R12, R15, R210) -/

/-- The four flags are the bits of `CPS`, lowest first (R15). -/
theorem toBits_getLsbD (ihdrSeen idatSeen inRun iendSeen : Bool) :
    let bits := (Cps.mk ihdrSeen idatSeen inRun iendSeen).toBits
    bits.getLsbD 0 = ihdrSeen ∧ bits.getLsbD 1 = idatSeen ∧ bits.getLsbD 2 = inRun ∧ bits.getLsbD 3 = iendSeen := by
  decide +revert

/-- Settles O54: the codes are `Phase.code`, `EndCause.code` and `ErrKind.code` case by case. -/
theorem statusCodes : Obligations.StatusCodes :=
  ⟨rfl, rfl, rfl, fun ⟨ihdrSeen, idatSeen, inRun, iendSeen⟩ => toBits_getLsbD ihdrSeen idatSeen inRun iendSeen⟩

end Sys2Proof.Proofs
end

section
/-! PROOF. Reset (O2): whatever a launch has left in the block, nothing of it survives (R240). -/

namespace Sys2Proof.Proofs

open Sys2Proof Sys2Proof.Machine

/-- Settles O2: a reset at the head of the queue is taken before phase and flow are looked at, and `applyReset` keeps of the old
state only what belongs to the host. -/
theorem resetForgetsEverything : Obligations.ResetForgetsEverything := by
  intro s q hq
  calc step s = .next (applyReset q s) := step_reset hq
    _ = .next { State.reset with hostQueue := q, replies := s.replies } := rfl

end Sys2Proof.Proofs
end

section
/-! PROOF. What a step outside `RUN` runs: the host's next operation (O23). -/

namespace Sys2Proof.Proofs

open Sys2Proof Sys2Proof.Machine

/-- Settles O23: outside `RUN` the oldest transaction is taken, and each of the five is carried out as the instruction of the same
name, in the state whose queue no longer holds it. -/
theorem stepRunsHostOperation : Obligations.StepRunsHostOperation := by
  intro s q hrun
  have taken {op : HostOp} (hop : op ≠ .reset) (hq : s.hostQueue = op :: q) :
      step s = Action.result (hostAction op { s with hostQueue := q }) := step_host hrun hq hop
  exact ⟨fun _ => taken nofun, taken nofun, taken nofun, fun _ _ => taken nofun, taken nofun⟩

end Sys2Proof.Proofs
end
